-- ==== Sys2Proof/Word.lean ====
section
/-! DEFINITION. The word types of CT-CORE (spec 00_scope.md R6 to R9, R11). Every other width is a
field's own: 16 bits for a CSR, 32 for a command word, 6 for a limb address. -/

namespace Sys2Proof

/-- One byte of a little-endian byte image (R51). -/
abbrev Byte := BitVec 8

/-- CT's `Word`, one limb: an `n`-bit unsigned value (R9, R16). -/
abbrev Limb (n : Nat) := BitVec n

/-- CT's `MultiWordState`: four `n`-bit limbs read as one `4n`-bit unsigned integer, limb 0 least
significant (R9). The limb view of a value is `limb`/`ofLimbs` in `Machine/Limbs.lean`. -/
abbrev Mws (n : Nat) := BitVec (4 * n)

/-- The 32-bit value on the command port (R70). -/
abbrev CommandWord := BitVec 32

end Sys2Proof
end

