-- ==== Sys2Proof/Config.lean ====
section
/-! DEFINITION. The implementation parameters of CT-CORE (spec 00_scope.md R6) and the randomness
source's answers (43_perm_rand_csr.md R123). Each is a constant with no body: no proof can see its
value, so every claim about the machine holds for every instance that R6 admits and for every
sequence of draws (assumption log 1, 2 and 3). -/

namespace Sys2Proof

/-- Where `init` XORs a nonce bit (R6, R143): state bit 0 (the default) or state bit i. -/
inductive NonceInject where
  | bit0
  | bitI
deriving DecidableEq, Repr, Inhabited

/-- The number of bytes of one limb, less one: 0 to 2046, so that `N = 8 * (n + 1)` runs over exactly
the multiples of 8 from 8 to 16376 that R6 admits. -/
opaque Config.limbBytesLessOne : Fin 2047

/-- `N`, the limb width in bits (R6): a multiple of 8 with 8 ≤ N ≤ 16376. -/
def Config.N : Nat := 8 * (Config.limbBytesLessOne.val + 1)

/-- `W = 4N`, the register width and the sponge state width `b` (R6). -/
abbrev Config.W : Nat := 4 * Config.N

/-- The number of Duplex key slots, less one. -/
opaque Config.keySlotsLessOne : Fin 65535

/-- `UMAX`, the number of Duplex key slots (R6): 1 ≤ UMAX ≤ 65535. -/
def Config.UMAX : Nat := Config.keySlotsLessOne.val + 1

/-- The number of PRNG seed slots, less two. -/
opaque Config.seedSlotsLessTwo : Fin 65534

/-- `SMAX`, the number of PRNG seed slots (R6): 2 ≤ SMAX ≤ 65535. -/
def Config.SMAX : Nat := Config.seedSlotsLessTwo.val + 2

/-- `NONCE_INJECT` of this instance (R6). -/
opaque Config.nonceInject : NonceInject

/-- A W-bit value: the content of a general register or of a sponge state. -/
abbrev Word := Mws Config.N

/-- `P`, the permutation unit (R6, R120): any total function from W-bit values to W-bit values.
A pure function of its argument, so the same input always has the same answer. Nothing says that it
is a bijection. -/
opaque Config.P : Word → Word

/-- The randomness source (R123): its answer to the `k`-th request since the machine was made, an
N-bit value that no rule constrains. The counter is `State.drawn`. -/
opaque Config.draw : Nat → Limb Config.N

end Sys2Proof
end

