-- ==== Sys2Proof/Syntax.lean ====
section
/-! DEFINITION. The 29 commands of CT-CORE as syntax: one constructor per row of the opcode table
(spec 30_encoding.md R74). Each operand has the type of its encoding field, so a register number, a
CSR number, an amount or a flag outside its field cannot be written down at all. -/

namespace Sys2Proof

/-- A general register number, x0 to x15 (R21, R71). -/
abbrev Reg := Fin 16

/-- A CSR number as it stands in a command (R25): 0 to 15, assigned or not. -/
abbrev CsrNumber := Fin 16

/-- The six configuration CSRs, which software writes (R27). -/
inductive CfgReg where
  | r | k | u | alpha | t | s
deriving DecidableEq, Repr

/-- The assigned CSRs (R27): the configuration CSRs and the four read-only views. -/
inductive Csr where
  | cfg (c : CfgReg)
  | status
  | hwN
  | hwUmax
  | hwSmax
deriving DecidableEq, Repr

/-- A command of CT-CORE, with the operands of its row of R74. -/
inductive Instr where
  | not (rd ra : Reg)
  | and (rd ra rb : Reg)
  | or (rd ra rb : Reg)
  | xor (rd ra rb : Reg)
  | cmpeq (ra rb : Reg)
  | shl (rd ra : Reg) (imm16 : BitVec 16)
  | shr (rd ra : Reg) (imm16 : BitVec 16)
  | rotl (rd ra : Reg) (imm16 : BitVec 16)
  | rotr (rd ra : Reg) (imm16 : BitVec 16)
  | add (rd ra rb : Reg)
  | sub (rd ra rb : Reg)
  | rand (rd : Reg)
  | perm (rd ra : Reg)
  | csrw (csr : CsrNumber) (imm16 : BitVec 16)
  | csrr (rd : Reg) (csr : CsrNumber)
  | setupDup
  | dupReset (ra : Reg)
  | dupDuplex (rd ra : Reg) (f : Bool)
  | setupAsk
  | askRekey (ra : Reg)
  | askInit (ra : Reg)
  | askNext (rd : Reg)
  | setupDss
  | dssRekey (ra : Reg)
  | dssInit (ra : Reg)
  | dssNext (rd : Reg)
  | setupPrg
  | prgRefresh (ra : Reg)
  | prgNext (rd : Reg)
deriving DecidableEq, Repr

end Sys2Proof
end

