-- ==== Sys2Proof/WellFormed.lean ====
section
/-! DEFINITION. Two checks that need no state. `wordWellFormed` is the table of R74 as data, match and
mask: which 32-bit words are commands at all (R75, R76). `Instr.wellFormed` says which commands have
operands in their static domain: a legal CSR number (R25) and a shift amount below W (R104). An
ill-formed command still decodes and still runs: it ends with `IllegalCommand` or `OperandRange` in
every state. -/

namespace Sys2Proof

/-- One row of the table of R74. A word `w` is that command exactly when `w AND mask = pattern`. -/
structure OpcodeRow where
  mnemonic : String
  pattern : CommandWord
  mask : CommandWord
deriving DecidableEq, Repr

/-- The row of R74 that a command belongs to. -/
def Instr.row : Instr → OpcodeRow
  | .not _ _ => ⟨"NOT", 0x10000000, 0xFF00FFFF⟩
  | .and _ _ _ => ⟨"AND", 0x11000000, 0xFF000FFF⟩
  | .or _ _ _ => ⟨"OR", 0x12000000, 0xFF000FFF⟩
  | .xor _ _ _ => ⟨"XOR", 0x13000000, 0xFF000FFF⟩
  | .cmpeq _ _ => ⟨"CMPEQ", 0x14000000, 0xFFF00FFF⟩
  | .shl _ _ _ => ⟨"SHL", 0x18000000, 0xFF000000⟩
  | .shr _ _ _ => ⟨"SHR", 0x19000000, 0xFF000000⟩
  | .rotl _ _ _ => ⟨"ROTL", 0x1A000000, 0xFF000000⟩
  | .rotr _ _ _ => ⟨"ROTR", 0x1B000000, 0xFF000000⟩
  | .add _ _ _ => ⟨"ADD", 0x20000000, 0xFF000FFF⟩
  | .sub _ _ _ => ⟨"SUB", 0x21000000, 0xFF000FFF⟩
  | .rand _ => ⟨"RAND", 0x28000000, 0xFF0FFFFF⟩
  | .perm _ _ => ⟨"PERM", 0x29000000, 0xFF00FFFF⟩
  | .csrw _ _ => ⟨"CSRW", 0x30000000, 0xFF0F0000⟩
  | .csrr _ _ => ⟨"CSRR", 0x31000000, 0xFF00FFFF⟩
  | .setupDup => ⟨"SETUP.DUP", 0x40000000, 0xFFFFFFFF⟩
  | .dupReset _ => ⟨"DUP.RESET", 0x41000000, 0xFFF0FFFF⟩
  | .dupDuplex _ _ _ => ⟨"DUP.DUPLEX", 0x42000000, 0xFF00FFFE⟩
  | .setupAsk => ⟨"SETUP.ASK", 0x50000000, 0xFFFFFFFF⟩
  | .askRekey _ => ⟨"ASK.REKEY", 0x51000000, 0xFFF0FFFF⟩
  | .askInit _ => ⟨"ASK.INIT", 0x52000000, 0xFFF0FFFF⟩
  | .askNext _ => ⟨"ASK.NEXT", 0x53000000, 0xFF0FFFFF⟩
  | .setupDss => ⟨"SETUP.DSS", 0x60000000, 0xFFFFFFFF⟩
  | .dssRekey _ => ⟨"DSS.REKEY", 0x61000000, 0xFFF0FFFF⟩
  | .dssInit _ => ⟨"DSS.INIT", 0x62000000, 0xFFF0FFFF⟩
  | .dssNext _ => ⟨"DSS.NEXT", 0x63000000, 0xFF0FFFFF⟩
  | .setupPrg => ⟨"SETUP.PRG", 0x70000000, 0xFFFFFFFF⟩
  | .prgRefresh _ => ⟨"PRG.REFRESH", 0x71000000, 0xFFF0FFFF⟩
  | .prgNext _ => ⟨"PRG.NEXT", 0x72000000, 0xFF0FFFFF⟩

/-- The rows of the ALU commands. -/
def aluRows : List OpcodeRow :=
  [Instr.not 0 0, .and 0 0 0, .or 0 0 0, .xor 0 0 0, .cmpeq 0 0, .shl 0 0 0, .shr 0 0 0,
   .rotl 0 0 0, .rotr 0 0 0, .add 0 0 0, .sub 0 0 0].map Instr.row

/-- The rows of the system and Duplex commands. -/
def systemRows : List OpcodeRow :=
  [Instr.rand 0, .perm 0 0, .csrw 0 0, .csrr 0 0, .setupDup, .dupReset 0,
   .dupDuplex 0 0 false].map Instr.row

/-- The rows of the two stream ciphers and of the PRNG. -/
def sessionRows : List OpcodeRow :=
  [Instr.setupAsk, .askRekey 0, .askInit 0, .askNext 0, .setupDss, .dssRekey 0, .dssInit 0,
   .dssNext 0, .setupPrg, .prgRefresh 0, .prgNext 0].map Instr.row

/-- The opcode table of R74: 29 rows. -/
def opcodeTable : List OpcodeRow := aluRows ++ systemRows ++ sessionRows

/-- `w AND mask = match` of R74. -/
def OpcodeRow.covers (row : OpcodeRow) (w : CommandWord) : Bool :=
  w &&& row.mask == row.pattern

/-- A word is a command exactly when a row of R74 covers it (R76). -/
def wordWellFormed (w : CommandWord) : Bool :=
  opcodeTable.any fun row => row.covers w

/-- The operands lie in the domain the spec gives the command whatever the state: a CSRW names one of
CSRs 0 to 5 (R126), a CSRR an assigned CSR (R127), a shift or rotate amount is below W (R104). -/
def Instr.wellFormed : Instr → Bool
  | .shl _ _ imm16 => decide (imm16.toNat < Config.W)
  | .shr _ _ imm16 => decide (imm16.toNat < Config.W)
  | .rotl _ _ imm16 => decide (imm16.toNat < Config.W)
  | .rotr _ _ imm16 => decide (imm16.toNat < Config.W)
  | .csrw csr _ => decide (csr.val ≤ 5)
  | .csrr _ csr => decide (csr.val ≤ 5 ∨ (8 ≤ csr.val ∧ csr.val ≤ 11))
  | .not _ _ => true
  | .and _ _ _ => true
  | .or _ _ _ => true
  | .xor _ _ _ => true
  | .cmpeq _ _ => true
  | .add _ _ _ => true
  | .sub _ _ _ => true
  | .rand _ => true
  | .perm _ _ => true
  | .setupDup => true
  | .dupReset _ => true
  | .dupDuplex _ _ _ => true
  | .setupAsk => true
  | .askRekey _ => true
  | .askInit _ => true
  | .askNext _ => true
  | .setupDss => true
  | .dssRekey _ => true
  | .dssInit _ => true
  | .dssNext _ => true
  | .setupPrg => true
  | .prgRefresh _ => true
  | .prgNext _ => true

end Sys2Proof
end

