-- ==== Sys2Proof/Decode.lean ====
section
/-! DEFINITION. The decoder of R77, total on every 32-bit word, which rejects by name, and the encoder
written from the same formats (R71, R72). A word's fields are taken out here and nowhere else. -/

namespace Sys2Proof

/-- Why a word is no command (R75, R76). Either way the core answers `IllegalCommand`. -/
inductive DecodeError where
  /-- Bits 31:24 name none of the 29 opcodes. -/
  | unassignedOpcode
  /-- The opcode is assigned, and a field its row does not use is not zero. -/
  | nonzeroUnusedField
deriving DecidableEq, Repr

/-- Bits 31:24 of both formats (R70). -/
def opField (w : CommandWord) : BitVec 8 := w.extractLsb' 24 8

/-- Bits 23:20 of both formats. -/
def rdBits (w : CommandWord) : BitVec 4 := w.extractLsb' 20 4

/-- Bits 19:16 of both formats. -/
def raBits (w : CommandWord) : BitVec 4 := w.extractLsb' 16 4

/-- Bits 15:12 of format R. -/
def rbBits (w : CommandWord) : BitVec 4 := w.extractLsb' 12 4

/-- Bits 11:0 of format R. -/
def zero12 (w : CommandWord) : BitVec 12 := w.extractLsb' 0 12

/-- Bits 15:0 of format I. -/
def immField (w : CommandWord) : BitVec 16 := w.extractLsb' 0 16

/-- A 4-bit field as the number it holds, with no remapping (R73). -/
def fieldNumber (b : BitVec 4) : Fin 16 := b.toFin

/-- R75: a command stands only where the bits its row does not use are all zero. -/
def requireZero {k : Nat} (unused : BitVec k) (i : Instr) : Except DecodeError Instr :=
  if unused = 0 then .ok i else .error .nonzeroUnusedField

/-- The decoding procedure (R77). -/
def decode (w : CommandWord) : Except DecodeError Instr :=
  let rd := fieldNumber (rdBits w)
  let ra := fieldNumber (raBits w)
  let rb := fieldNumber (rbBits w)
  let imm := immField w
  match (opField w).toNat with
  | 0x10 => requireZero (rbBits w ++ zero12 w) (.not rd ra)
  | 0x11 => requireZero (zero12 w) (.and rd ra rb)
  | 0x12 => requireZero (zero12 w) (.or rd ra rb)
  | 0x13 => requireZero (zero12 w) (.xor rd ra rb)
  | 0x14 => requireZero (rdBits w ++ zero12 w) (.cmpeq ra rb)
  | 0x18 => .ok (.shl rd ra imm)
  | 0x19 => .ok (.shr rd ra imm)
  | 0x1A => .ok (.rotl rd ra imm)
  | 0x1B => .ok (.rotr rd ra imm)
  | 0x20 => requireZero (zero12 w) (.add rd ra rb)
  | 0x21 => requireZero (zero12 w) (.sub rd ra rb)
  | 0x28 => requireZero (raBits w ++ rbBits w ++ zero12 w) (.rand rd)
  | 0x29 => requireZero (rbBits w ++ zero12 w) (.perm rd ra)
  | 0x30 => requireZero (raBits w) (.csrw rd imm)
  | 0x31 => requireZero (rbBits w ++ zero12 w) (.csrr rd ra)
  | 0x40 => requireZero (rdBits w ++ raBits w ++ rbBits w ++ zero12 w) .setupDup
  | 0x41 => requireZero (rdBits w ++ rbBits w ++ zero12 w) (.dupReset ra)
  | 0x42 => requireZero (w.extractLsb' 1 15) (.dupDuplex rd ra (w.getLsbD 0))
  | 0x50 => requireZero (rdBits w ++ raBits w ++ rbBits w ++ zero12 w) .setupAsk
  | 0x51 => requireZero (rdBits w ++ rbBits w ++ zero12 w) (.askRekey ra)
  | 0x52 => requireZero (rdBits w ++ rbBits w ++ zero12 w) (.askInit ra)
  | 0x53 => requireZero (raBits w ++ rbBits w ++ zero12 w) (.askNext rd)
  | 0x60 => requireZero (rdBits w ++ raBits w ++ rbBits w ++ zero12 w) .setupDss
  | 0x61 => requireZero (rdBits w ++ rbBits w ++ zero12 w) (.dssRekey ra)
  | 0x62 => requireZero (rdBits w ++ rbBits w ++ zero12 w) (.dssInit ra)
  | 0x63 => requireZero (raBits w ++ rbBits w ++ zero12 w) (.dssNext rd)
  | 0x70 => requireZero (rdBits w ++ raBits w ++ rbBits w ++ zero12 w) .setupPrg
  | 0x71 => requireZero (rdBits w ++ rbBits w ++ zero12 w) (.prgRefresh ra)
  | 0x72 => requireZero (raBits w ++ rbBits w ++ zero12 w) (.prgNext rd)
  | _ => .error .unassignedOpcode

/-- Format R (R71) with `zero12 = 0`. -/
def formatR (op : BitVec 8) (rd ra rb : Fin 16) : CommandWord :=
  op ++ BitVec.ofNat 4 rd.val ++ BitVec.ofNat 4 ra.val ++ BitVec.ofNat 4 rb.val ++ 0#12

/-- Format I (R72). -/
def formatI (op : BitVec 8) (rd ra : Fin 16) (imm16 : BitVec 16) : CommandWord :=
  op ++ BitVec.ofNat 4 rd.val ++ BitVec.ofNat 4 ra.val ++ imm16

/-- The word of a command (R74); every unused field is zero (R75). -/
def encode : Instr → CommandWord
  | .not rd ra => formatR 0x10 rd ra 0
  | .and rd ra rb => formatR 0x11 rd ra rb
  | .or rd ra rb => formatR 0x12 rd ra rb
  | .xor rd ra rb => formatR 0x13 rd ra rb
  | .cmpeq ra rb => formatR 0x14 0 ra rb
  | .shl rd ra imm16 => formatI 0x18 rd ra imm16
  | .shr rd ra imm16 => formatI 0x19 rd ra imm16
  | .rotl rd ra imm16 => formatI 0x1A rd ra imm16
  | .rotr rd ra imm16 => formatI 0x1B rd ra imm16
  | .add rd ra rb => formatR 0x20 rd ra rb
  | .sub rd ra rb => formatR 0x21 rd ra rb
  | .rand rd => formatR 0x28 rd 0 0
  | .perm rd ra => formatR 0x29 rd ra 0
  | .csrw csr imm16 => formatI 0x30 csr 0 imm16
  | .csrr rd csr => formatR 0x31 rd csr 0
  | .setupDup => formatR 0x40 0 0 0
  | .dupReset ra => formatR 0x41 0 ra 0
  | .dupDuplex rd ra f => formatI 0x42 rd ra (BitVec.ofNat 16 f.toNat)
  | .setupAsk => formatR 0x50 0 0 0
  | .askRekey ra => formatR 0x51 0 ra 0
  | .askInit ra => formatR 0x52 0 ra 0
  | .askNext rd => formatR 0x53 rd 0 0
  | .setupDss => formatR 0x60 0 0 0
  | .dssRekey ra => formatR 0x61 0 ra 0
  | .dssInit ra => formatR 0x62 0 ra 0
  | .dssNext rd => formatR 0x63 rd 0 0
  | .setupPrg => formatR 0x70 0 0 0
  | .prgRefresh ra => formatR 0x71 0 ra 0
  | .prgNext rd => formatR 0x72 rd 0 0

/-- The command port carries a 32-bit number, so a command's bits are numbered as the opcode table
numbers them and there is no byte order to undo (R56, R70; assumption log 8). Bits at and above
`nbits` are zero. -/
def tableWord (nbits w : Nat) : CommandWord := BitVec.ofNat 32 (w % 2 ^ nbits)

/-- What the decoder reads from the command word whose low `nbits` bits are `w`. -/
def decodeTableWord (nbits w : Nat) : Option Instr := (decode (tableWord nbits w)).toOption

end Sys2Proof
end

