-- ==== Sys2Proof/Machine/Limbs.lean ====
section
/-! DEFINITION. The limb view of a W-bit value, its byte images and the constants the rules name
(spec 00_scope.md R8 to R10, 20_memory.md R51, R52), for every limb width `n`. -/

namespace Sys2Proof.Machine

/-- `v.l[i]`, bits `n·i+n-1 : n·i` (R9). -/
def limb {n : Nat} (v : Mws n) (i : Fin 4) : Limb n := v.extractLsb' (n * i.val) n

/-- `l[0] + l[1]·2^n + l[2]·2^(2n) + l[3]·2^(3n)` (R9). -/
def ofLimbs {n : Nat} (l0 l1 l2 l3 : Limb n) : Mws n :=
  BitVec.ofNat (4 * n)
    (l0.toNat + l1.toNat * 2 ^ n + l2.toNat * 2 ^ (2 * n) + l3.toNat * 2 ^ (3 * n))

/-- `v` with limb `i` replaced by `d`, the other three kept (R55). -/
def setLimb {n : Nat} (v : Mws n) (i : Fin 4) (d : Limb n) : Mws n :=
  ofLimbs (if i = 0 then d else limb v 0) (if i = 1 then d else limb v 1)
    (if i = 2 then d else limb v 2) (if i = 3 then d else limb v 3)

/-- `ONE = [1, 0, 0, 0]` (R112, R143). -/
def one (n : Nat) : Mws n := ofLimbs 1 0 0 0

/-- `MASK(k) = 2^k - 1` in `w` bits (R10). -/
def mask (w k : Nat) : BitVec w := BitVec.ofNat w (2 ^ k - 1)

/-- `DOMBIT = 2^(w-1)` in `w` bits (R10). -/
def domBit (w : Nat) : BitVec w := BitVec.ofNat w (2 ^ (w - 1))

/-- `LEBytes(v)`: byte `m` is `v[8m+7 : 8m]`, the least-significant byte first (R51). -/
def leBytes {w : Nat} (v : BitVec w) : List Byte :=
  (List.range (w / 8)).map fun m => v.extractLsb' (8 * m) 8

/-- `RateBytes(v, r)`: the first `ceil(r/8)` bytes of `LEBytes(v AND MASK(r))` (R52). -/
def rateBytes {w : Nat} (v : BitVec w) (r : Nat) : List Byte :=
  (leBytes (v &&& mask w r)).take ((r + 7) / 8)

end Sys2Proof.Machine
end

