-- ==== Sys2Proof/Machine/State.lean ====
section
/-! DEFINITION. The state of CT-CORE (spec 10_state.md R20 to R41) as plain data, the reasons a step
could end without a next state, and the state after reset (R40, R190). -/

namespace Sys2Proof.Machine

/-- `MODE` (R30): which construction the engine holds. Codes 5 to 7 never occur (93 U11). -/
inductive Mode where
  | none | dup | ask | dss | prg
deriving DecidableEq, Repr

/-- `PHASE` (R31): the stream ciphers' session state. Code 3 never occurs (93 U11). -/
inductive Phase where
  | uninit | keyed | initialized
deriving DecidableEq, Repr

/-- A response code (R171, R173): success or one of the seven errors. Codes 8 to 15 never occur. -/
inductive Response where
  | ok
  | illegalCommand
  | operandRange
  | paramInvalid
  | notSetup
  | notKeyed
  | notInitialized
  | invalidDomainValue
deriving DecidableEq, Repr

/-- The six 16-bit construction parameters: the staging CSRs CFG_* (R27) or the latched PAR.* (R32). -/
structure Params where
  r : BitVec 16
  k : BitVec 16
  u : BitVec 16
  alpha : BitVec 16
  t : BitVec 16
  s : BitVec 16
deriving DecidableEq, Repr

/-- All six parameters zero. -/
def Params.zero : Params := ⟨0, 0, 0, 0, 0, 0⟩

/-- What the host can do to the core (R200), one interaction at a time (R195, R196). -/
inductive HostRequest where
  /-- A 32-bit word on the command port. -/
  | command (w : CommandWord)
  /-- A data-port write of one limb (R55). -/
  | write (addr : BitVec 6) (v : Limb Config.N)
  /-- A data-port read of one limb (R54). -/
  | read (addr : BitVec 6)
  /-- The reset input (R190). -/
  | reset
deriving DecidableEq, Repr

/-- What happens at the core's ports (R63, R121, R123, R171, R54). The permutation and randomness
ports are not the host's: nothing in the machine reads an event back. -/
inductive PortEvent where
  /-- One `Permute` call: the value presented and the answer (R121). -/
  | permCall (input output : Word)
  /-- One answer of the randomness source (R123). -/
  | draw (v : Limb Config.N)
  /-- The response that ends a command (R171). -/
  | response (r : Response)
  /-- The answer to a data-port read (R54). -/
  | readData (v : Limb Config.N)
deriving DecidableEq, Repr

/-- The state: first the complete architectural state of R20, then the outside world as plain data. -/
structure State where
  /-- The general registers x[0] to x[15] (R21). -/
  x : Vector Word 16
  /-- The flag `EQ` (R23). -/
  eqFlag : Bool
  /-- `ERR`, the response of the most recent command (R28). -/
  err : Response
  /-- The configuration CSRs CFG_R, CFG_K, CFG_U, CFG_ALPHA, CFG_T, CFG_S (R27). -/
  cfg : Params
  /-- `MODE` (R30). -/
  mode : Mode
  /-- `PHASE` (R31). -/
  phase : Phase
  /-- The latched parameters PAR.r, PAR.k, PAR.u, PAR.alpha, PAR.t, PAR.s (R32). -/
  par : Params
  /-- `RMASK` (R32). -/
  rmask : Word
  /-- `KMASK` (R32). -/
  kmask : Word
  /-- `ST` (R33). -/
  st : Word
  /-- `DN` (R33). -/
  dn : Word
  /-- `KEY` (R34). -/
  key : Word
  /-- KEYS[0] to KEYS[UMAX-1] (R35). -/
  keys : Vector Word Config.UMAX
  /-- SEEDS[0] to SEEDS[SMAX-1] (R36). -/
  seeds : Vector Word Config.SMAX
  /-- `J` (R36). -/
  j : BitVec 16
  /-- The host interactions still to come, oldest first (R200; the model's own field, log 4). -/
  inbox : List HostRequest
  /-- How many draws the randomness source has answered (the model's own field, log 3). -/
  drawn : Nat
  /-- The port events so far, oldest first (R63; the model's own field, log 5). -/
  log : List PortEvent
deriving DecidableEq, Repr

/-- No step of CT-CORE faults: every command on every state ends with a response (R15), and an error
is a response code, not a stop (R171, R181). So there is no reason, and nothing raises one (safe). -/
inductive Fault where
deriving DecidableEq, Repr

/-- Why a step would have no meaning. -/
inductive Refusal where
  /-- An arm of `exec` without a meaning: raised by no arm of this model (safe). -/
  | notModelled (mnemonic : String)
deriving DecidableEq, Repr

/-- The outcome of a command or of a step. -/
abbrev Result := Host.Outcome State Fault Refusal

/-- The machine right after reset (R40, R190): all of it zero, MODE = NONE, PHASE = UNINIT. The queue
and the record of port events are empty and no draw has been made (logs 3, 4, 5). -/
def State.reset : State where
  x := Vector.replicate 16 0
  eqFlag := false
  err := .ok
  cfg := Params.zero
  mode := .none
  phase := .uninit
  par := Params.zero
  rmask := 0
  kmask := 0
  st := 0
  dn := 0
  key := 0
  keys := Vector.replicate Config.UMAX 0
  seeds := Vector.replicate Config.SMAX 0
  j := 0
  inbox := []
  drawn := 0
  log := []

end Sys2Proof.Machine
end

