-- ==== Sys2Proof/Machine/Operands.lean ====
section
/-! DEFINITION. Every operand form of the commands and of the data port: a register, an amount, a CSR
number, a limb address, an indexed key or seed (spec 10_state.md R21, R25, R27, 20_memory.md R53,
30_encoding.md R73). -/

namespace Sys2Proof.Machine

/-- `x[r]` (R10, R21). No register is hard-wired. -/
def State.getX (s : State) (r : Reg) : Word := s.x.get r

/-- An immediate amount: unsigned, neither scaled nor sign-extended (R73). -/
def amount (imm16 : BitVec 16) : Nat := imm16.toNat

/-- The register of a limb address: `addr[5:2]` (R53). -/
def addrReg (addr : BitVec 6) : Reg := (addr.extractLsb' 2 4).toFin

/-- The limb of a limb address: `addr[1:0]` (R53). -/
def addrLimb (addr : BitVec 6) : Fin 4 := (addr.extractLsb' 0 2).toFin

/-- The configuration CSR of a number: 0 to 5 are writable, nothing else is (R25, R27, R126). -/
def cfgReg? (n : CsrNumber) : Option CfgReg :=
  match n.val with
  | 0 => some .r
  | 1 => some .k
  | 2 => some .u
  | 3 => some .alpha
  | 4 => some .t
  | 5 => some .s
  | _ => none

/-- The CSR of a number: 6, 7 and 12 to 15 are unassigned (R25, R27, R127). -/
def csr? (n : CsrNumber) : Option Csr :=
  match cfgReg? n with
  | some c => some (.cfg c)
  | none =>
    match n.val with
    | 8 => some .status
    | 9 => some .hwN
    | 10 => some .hwUmax
    | 11 => some .hwSmax
    | _ => none

/-- One parameter of a block of six. -/
def Params.get (p : Params) : CfgReg → BitVec 16
  | .r => p.r
  | .k => p.k
  | .u => p.u
  | .alpha => p.alpha
  | .t => p.t
  | .s => p.s

/-- One parameter of a block of six replaced; every 16-bit value is legal (R25). -/
def Params.set (p : Params) (c : CfgReg) (v : BitVec 16) : Params :=
  match c with
  | .r => { p with r := v }
  | .k => { p with k := v }
  | .u => { p with u := v }
  | .alpha => { p with alpha := v }
  | .t => { p with t := v }
  | .s => { p with s := v }

/-- `KEYS[i]` (R35). An index at or above UMAX, which no reachable state asks for, reads 0 (log 7). -/
def State.keyAt (s : State) (i : Nat) : Word := s.keys[i]?.getD 0

/-- `SEEDS[i]` (R36). An index at or above SMAX, which no reachable state asks for, reads 0 (log 7). -/
def State.seedAt (s : State) (i : Nat) : Word := s.seeds[i]?.getD 0

/-- `CFG_R = 0 or CFG_R > W` (R176). -/
def State.rateInvalid (s : State) : Bool := decide (s.cfg.r.toNat = 0 ∨ Config.W < s.cfg.r.toNat)

/-- `CFG_K = 0 or CFG_K > W` (R176). -/
def State.keyWidthInvalid (s : State) : Bool := decide (s.cfg.k.toNat = 0 ∨ Config.W < s.cfg.k.toNat)

/-- `CFG_U = 0 or CFG_U > UMAX` (R176). -/
def State.keyCountInvalid (s : State) : Bool := decide (s.cfg.u.toNat = 0 ∨ Config.UMAX < s.cfg.u.toNat)

/-- `CFG_T = 0` (R176). -/
def State.roundsInvalid (s : State) : Bool := decide (s.cfg.t.toNat = 0)

/-- `CFG_S ≤ 1 or CFG_S > SMAX` (R176). -/
def State.seedCountInvalid (s : State) : Bool := decide (s.cfg.s.toNat ≤ 1 ∨ Config.SMAX < s.cfg.s.toNat)

end Sys2Proof.Machine
end

