-- ==== Sys2Proof/Machine/Flags.lean ====
section
/-! DEFINITION. The one flag computation, `EQ_W`, and the STATUS view with the numbers of its fields
(spec 40_mws_bitwise.md R94, 10_state.md R23, R28 to R31, 60_exceptions.md R173). There is no other
flag (R24). -/

namespace Sys2Proof.Machine

/-- `EQ_W(a, b)`: all four limbs pairwise equal (R94). -/
def eqW {n : Nat} (a b : Mws n) : Bool :=
  limb a 0 == limb b 0 && limb a 1 == limb b 1 && limb a 2 == limb b 2 && limb a 3 == limb b 3

/-- The code of a response (R173). -/
def Response.code : Response → BitVec 4
  | .ok => 0
  | .illegalCommand => 1
  | .operandRange => 2
  | .paramInvalid => 3
  | .notSetup => 4
  | .notKeyed => 5
  | .notInitialized => 6
  | .invalidDomainValue => 7

/-- The number of a MODE (R30). -/
def Mode.code : Mode → BitVec 3
  | .none => 0
  | .dup => 1
  | .ask => 2
  | .dss => 3
  | .prg => 4

/-- The number of a PHASE (R31). -/
def Phase.code : Phase → BitVec 2
  | .uninit => 0
  | .keyed => 1
  | .initialized => 2

/-- `STATUS` (R28): ERR in bits 3:0, EQ in bit 4, MODE in bits 10:8, PHASE in bits 12:11, the other
bits 0. -/
def State.statusWord (s : State) : BitVec 16 :=
  0#3 ++ s.phase.code ++ s.mode.code ++ 0#3 ++ BitVec.ofBool s.eqFlag ++ s.err.code

/-- `csr[name]` (R27 to R29). -/
def State.readCsr (s : State) : Csr → BitVec 16
  | .cfg c => s.cfg.get c
  | .status => s.statusWord
  | .hwN => BitVec.ofNat 16 Config.N
  | .hwUmax => BitVec.ofNat 16 Config.UMAX
  | .hwSmax => BitVec.ofNat 16 Config.SMAX

end Sys2Proof.Machine
end

