-- ==== Sys2Proof/Machine/Arith.lean ====
section
/-! DEFINITION. The value functions of MWS-ALU as the rules define them, limb by limb, for every limb
width `n` (spec 41_mws_shift_rotate.md R100 to R103, 42_mws_arith.md R111 to R113). NOT, AND, OR and
XOR have no cross-limb interaction (40_mws_bitwise.md R95) and are the operators of `BitVec`. -/

namespace Sys2Proof.Machine

/-- A carry, or one bit of a limb, as a limb. -/
def bitLimb {n : Nat} (b : Bool) : Limb n := BitVec.ofNat n b.toNat

/-- `SHL1` (R100): the top bit of limb i-1 becomes the bottom bit of limb i; the top bit of limb 3 is
discarded and `inBit` enters limb 0. -/
def shl1With {n : Nat} (inBit : Bool) (a : Mws n) : Mws n :=
  ofLimbs ((limb a 0 <<< 1) + bitLimb inBit) ((limb a 1 <<< 1) + bitLimb (limb a 0).msb)
    ((limb a 2 <<< 1) + bitLimb (limb a 1).msb) ((limb a 3 <<< 1) + bitLimb (limb a 2).msb)

/-- `SHR1` (R101): the bottom bit of limb i+1 becomes the top bit of limb i; the bottom bit of limb 0
is discarded and `inBit` enters the top of limb 3. -/
def shr1With {n : Nat} (inBit : Bool) (a : Mws n) : Mws n :=
  ofLimbs ((limb a 0 >>> 1) + (bitLimb ((limb a 1).getLsbD 0) <<< (n - 1)))
    ((limb a 1 >>> 1) + (bitLimb ((limb a 2).getLsbD 0) <<< (n - 1)))
    ((limb a 2 >>> 1) + (bitLimb ((limb a 3).getLsbD 0) <<< (n - 1)))
    ((limb a 3 >>> 1) + (bitLimb inBit <<< (n - 1)))

/-- `SHL_W(a, s)`: `SHL1` applied `s` times, with zero entering (R100). -/
def shlW {n : Nat} (a : Mws n) (s : Nat) : Mws n := Nat.iterate (shl1With false) s a

/-- `SHR_W(a, s)`: `SHR1` applied `s` times, with zero entering (R101). -/
def shrW {n : Nat} (a : Mws n) (s : Nat) : Mws n := Nat.iterate (shr1With false) s a

/-- `ROTL_W(a, s)` for `0 ≤ s < 4n` (R102). -/
def rotlW {n : Nat} (a : Mws n) (s : Nat) : Mws n :=
  if s = 0 then a else shlW a s ||| shrW a (4 * n - s)

/-- `ROTR_W(a, s)` for `0 ≤ s < 4n` (R103). -/
def rotrW {n : Nat} (a : Mws n) (s : Nat) : Mws n :=
  if s = 0 then a else shrW a s ||| shlW a (4 * n - s)

/-- One pass of the loop of R111: the wrapped sum of two limbs and the carry, and the carry out, which
is 1 exactly when the true sum reaches `2^n` (90_conflicts.md C1). -/
def addLimb {n : Nat} (a b : Limb n) (c : Nat) : Limb n × Nat :=
  let t := a.toNat + b.toNat + c
  (BitVec.ofNat n t, if 2 ^ n ≤ t then 1 else 0)

/-- `ADD_W(a, b)` (R111): the carry ripples from limb 0 to limb 3 and is dropped there. -/
def addW {n : Nat} (a b : Mws n) : Mws n :=
  let y0 := addLimb (limb a 0) (limb b 0) 0
  let y1 := addLimb (limb a 1) (limb b 1) y0.2
  let y2 := addLimb (limb a 2) (limb b 2) y1.2
  let y3 := addLimb (limb a 3) (limb b 3) y2.2
  ofLimbs y0.1 y1.1 y2.1 y3.1

/-- `NEG_W(b) = ADD_W(NOT_W(b), ONE)` (R112). -/
def negW {n : Nat} (b : Mws n) : Mws n := addW (~~~b) (one n)

/-- `SUB_W(a, b) = ADD_W(a, NEG_W(b))` (R113). -/
def subW {n : Nat} (a b : Mws n) : Mws n := addW a (negW b)

end Sys2Proof.Machine
end

