-- ==== Sys2Proof/Machine/Sponge.lean ====
section
/-! DEFINITION. The value functions of the SPONGE engine and of the permutation wrapper, for every limb
width `n`, every permutation `P` and every sequence of draws (spec 43_perm_rand_csr.md R121, R124,
44 to 47). The machine uses them at `Config.N`, `Config.P` and `Config.draw`; the spec's vectors use
them at N = 8 with its test permutations. -/

namespace Sys2Proof.Machine

/-- A value and the permutation-port events `(input, output)` that computing it made, in order (R63). -/
abbrev WithCalls (n : Nat) := Mws n × List (Mws n × Mws n)

/-- `Permute(v)` (R121): the answer is `P(v)` and the call is one event `(v, P(v))`. -/
def permute {n : Nat} (P : Mws n → Mws n) (v : Mws n) : WithCalls n := (P v, [(v, P v)])

/-- `SampleW()` (R124): four limb draws, limb 0 first, the first of them draw number `d`. -/
def sampleW {n : Nat} (draw : Nat → Limb n) (d : Nat) : Mws n :=
  ofLimbs (draw d) (draw (d + 1)) (draw (d + 2)) (draw (d + 3))

/-- What nonce bit `i` XORs into the state (R143): the bit itself, or the bit moved to position `i`. -/
def nonceWord {n : Nat} (inject : NonceInject) (nonce : Mws n) (i : Nat) : Mws n :=
  let bit := shrW nonce i &&& one n
  match inject with
  | .bit0 => bit
  | .bitI => shlW bit i

/-- The loop of R143 over the nonce bits `i, i+1, ..., i+todo-1`: XOR the bit in, then permute. -/
def absorbNonce {n : Nat} (P : Mws n → Mws n) (inject : NonceInject) (nonce : Mws n) :
    (todo i : Nat) → Mws n → WithCalls n
  | 0, _, s => (s, [])
  | todo + 1, i, s =>
    let p := permute P (s ^^^ nonceWord inject nonce i)
    let rest := absorbNonce P inject nonce todo (i + 1) p.1
    (rest.1, p.2 ++ rest.2)

/-- `CipherInit(key, nonce)` (R143) with `k = PAR.k`. -/
def cipherInit {n : Nat} (P : Mws n → Mws n) (inject : NonceInject) (k : Nat) (kmask key nonce : Mws n) :
    WithCalls n :=
  let first := permute P (shlW (key &&& kmask) (4 * n - k))
  let absorbed := absorbNonce P inject nonce k 0 first.1
  ((absorbed.1 &&& ~~~kmask) ||| (nonce &&& kmask), first.2 ++ absorbed.2)

/-- The value DUP.RESET permutes (R132): key OR IV, rotated left by `alpha mod W`. -/
def dupResetInput {n : Nat} (key iv : Mws n) (alpha : Nat) : Mws n :=
  rotlW (key ||| iv) (alpha % (4 * n))

/-- The value DUP.DUPLEX permutes (R133): the rate cleared if `f`, then the whole input XORed in. -/
def duplexInput {n : Nat} (st rmask input : Mws n) (f : Bool) : Mws n :=
  (if f then st &&& ~~~rmask else st) ^^^ input

/-- The "up" branch of a DSS value: bit W-1 forced to 0 (R152, R153). -/
def upBranch {n : Nat} (v : Mws n) : Mws n := v &&& ~~~domBit (4 * n)

/-- The "down" branch of a DSS value: bit W-1 forced to 1 (R152, R153). -/
def downBranch {n : Nat} (v : Mws n) : Mws n := v ||| domBit (4 * n)

/-- The next shared value of DSS.NEXT (R153): the subkey in the rate, the mixed capacity elsewhere. -/
def dssShared {n : Nat} (u d rmask : Mws n) : Mws n :=
  (u &&& rmask) ||| ((u ^^^ d) &&& ~~~rmask)

/-- The value PRG.REFRESH permutes (R161): only the rate bits of the state change. -/
def prgRefreshInput {n : Nat} (st input seed rmask : Mws n) : Mws n :=
  st ^^^ ((input ^^^ seed) &&& rmask)

/-- The loop of R163: `count` times, clear the rate bits and permute. -/
def prgTruncate {n : Nat} (P : Mws n → Mws n) (rmask : Mws n) : (count : Nat) → Mws n → WithCalls n
  | 0, s => (s, [])
  | count + 1, s =>
    let p := permute P (s &&& ~~~rmask)
    let rest := prgTruncate P rmask count p.1
    (rest.1, p.2 ++ rest.2)

end Sys2Proof.Machine
end

