-- ==== Sys2Proof/Machine/Ops.lean ====
section
/-! DEFINITION. The named operations on the state that every command and host access is made of:
writing a register or a CSR, ending a command (R171), raising an error (R172), recording port events
(R63), drawing (R123), clearing the engine (R41), the data port (R54, R55) and reset (R190). -/

namespace Sys2Proof.Machine

/-- `x[r] <- v` (R10, R21). -/
def State.setX (s : State) (r : Reg) (v : Word) : State := { s with x := s.x.set r.val v r.isLt }

/-- `csr[name] <- v` for a configuration CSR (R126). -/
def State.setCfg (s : State) (c : CfgReg) (v : BitVec 16) : State := { s with cfg := s.cfg.set c v }

/-- The end of every command (R171): the code goes to ERR and to the host. -/
def State.respond (s : State) (r : Response) : State :=
  { s with err := r, log := s.log ++ [.response r] }

/-- The end of a command that succeeded: response 0 (R171). -/
def State.complete (s : State) : State := s.respond .ok

/-- `raise e` (R172), all that CT-CORE has for taking an exception (R181): nothing changes but ERR, and
the code is returned. There is nothing to return from (R184). -/
def State.raise (s : State) (e : Response) : State := s.respond e

/-- The permutation-port events of a computation, recorded in order (R63, R121). -/
def State.logCalls (s : State) (calls : List (Word × Word)) : State :=
  { s with log := s.log ++ calls.map fun c => .permCall c.1 c.2 }

/-- The next `count` answers of the randomness source, as port events in order (R123). -/
def drawEvents (drawn count : Nat) : List PortEvent :=
  (List.range count).map fun i => .draw (Config.draw (drawn + i))

/-- `count` draws are made: the next ones answer the next command that draws (R123, R125). -/
def State.consumeDraws (s : State) (count : Nat) : State :=
  { s with drawn := s.drawn + count, log := s.log ++ drawEvents s.drawn count }

/-- `SampleW()` number `i` of this command, counted from 0 (R124): draws `4i` to `4i+3` of the command,
limb 0 first. -/
def State.sample (s : State) (i : Nat) : Word := sampleW Config.draw (s.drawn + 4 * i)

/-- `EngineClear()` (R41): the previous instance is destroyed. MODE, the general registers, EQ and the
configuration CSRs are not touched. -/
def State.engineClear (s : State) : State :=
  { s with
    phase := .uninit, par := Params.zero, rmask := 0, kmask := 0, st := 0, dn := 0, key := 0,
    keys := Vector.replicate Config.UMAX 0, seeds := Vector.replicate Config.SMAX 0, j := 0 }

/-- `MemWrite(addr, 1, v)` (R55): one limb of one register; ERR and EQ do not change. -/
def State.memWrite (s : State) (addr : BitVec 6) (v : Limb Config.N) : State :=
  s.setX (addrReg addr) (setLimb (s.getX (addrReg addr)) (addrLimb addr) v)

/-- `MemRead(addr, 1)` (R54): the limb at a limb address. -/
def State.memRead (s : State) (addr : BitVec 6) : Limb Config.N :=
  limb (s.getX (addrReg addr)) (addrLimb addr)

/-- The host reads a limb (R54): it gets the limb, and no state of the core changes. -/
def State.answerRead (s : State) (addr : BitVec 6) : State :=
  { s with log := s.log ++ [.readData (s.memRead addr)] }

/-- The reset input (R190, R191): every piece of state takes its reset value. The host's queue, the
randomness source and the record of port events are outside the core and go on. -/
def State.resetCore (s : State) : State :=
  { State.reset with inbox := s.inbox, drawn := s.drawn, log := s.log }

end Sys2Proof.Machine
end

