-- ==== Sys2Proof/Machine/Asakey.lean ====
section
/-! DEFINITION. SETUP.ASK, ASK.REKEY, ASK.INIT and ASK.NEXT (spec 45_asakey.md R140 to R144, R147), with
the setup and the masks that the two stream ciphers share. -/

namespace Sys2Proof.Machine

/-- The effect SETUP.ASK and SETUP.DSS share but for the MODE written (R140, R150). -/
def State.setupCipher (s : State) (m : Mode) : State :=
  { s.engineClear with
    par := { Params.zero with r := s.cfg.r, k := s.cfg.k }
    rmask := mask Config.W s.cfg.r.toNat
    kmask := mask Config.W s.cfg.k.toNat
    mode := m
    phase := .uninit }

/-- `CipherInit(KEY, nonce)` of this instance (R143). -/
def State.cipherInit (s : State) (nonce : Word) : WithCalls Config.N :=
  Machine.cipherInit Config.P Config.nonceInject s.par.k.toNat s.kmask s.key nonce

/-- SETUP.ASK (R140). -/
def execSetupAsk (s : State) : Result :=
  .next (if s.rateInvalid || s.keyWidthInvalid then s.raise .paramInvalid
    else (s.setupCipher .ask).complete)

/-- ASK.REKEY (R141): the key is stored as given, the session is discarded. -/
def execAskRekey (ra : Reg) (s : State) : Result :=
  .next (if s.mode ≠ .ask then s.raise .notSetup
    else if eqW (s.getX ra) 0 then s.raise .invalidDomainValue
    else { s with key := s.getX ra, st := 0, phase := .keyed }.complete)

/-- ASK.INIT (R142): accepted in KEYED and in INITIALIZED (90_conflicts.md C4). -/
def execAskInit (ra : Reg) (s : State) : Result :=
  .next (if s.mode ≠ .ask then s.raise .notSetup
    else if s.phase = .uninit then s.raise .notKeyed
    else if eqW (s.getX ra) 0 then s.raise .invalidDomainValue
    else
      let p := s.cipherInit (s.getX ra)
      { s.logCalls p.2 with st := p.1, phase := .initialized }.complete)

/-- ASK.NEXT (R144): the output is the rate after the permutation. -/
def execAskNext (rd : Reg) (s : State) : Result :=
  .next (if s.mode ≠ .ask then s.raise .notSetup
    else if s.phase ≠ .initialized then s.raise .notInitialized
    else
      let p := permute Config.P s.st
      ({ s.logCalls p.2 with st := p.1 }.setX rd (p.1 &&& s.rmask)).complete)

end Sys2Proof.Machine
end

