-- ==== Sys2Proof/Machine/Bitwise.lean ====
section
/-! DEFINITION. NOT, AND, OR, XOR and CMPEQ (spec 40_mws_bitwise.md R90 to R95). -/

namespace Sys2Proof.Machine

/-- NOT (R90). -/
def execNot (rd ra : Reg) (s : State) : Result :=
  .next (s.setX rd (~~~(s.getX ra))).complete

/-- AND (R91). -/
def execAnd (rd ra rb : Reg) (s : State) : Result :=
  .next (s.setX rd (s.getX ra &&& s.getX rb)).complete

/-- OR (R92). -/
def execOr (rd ra rb : Reg) (s : State) : Result :=
  .next (s.setX rd (s.getX ra ||| s.getX rb)).complete

/-- XOR (R93). -/
def execXor (rd ra rb : Reg) (s : State) : Result :=
  .next (s.setX rd (s.getX ra ^^^ s.getX rb)).complete

/-- CMPEQ (R94): the only command that writes EQ. -/
def execCmpeq (ra rb : Reg) (s : State) : Result :=
  .next { s with eqFlag := eqW (s.getX ra) (s.getX rb) }.complete

end Sys2Proof.Machine
end

