-- ==== Sys2Proof/Machine/Dss.lean ====
section
/-! DEFINITION. SETUP.DSS, DSS.REKEY, DSS.INIT and DSS.NEXT (spec 46_dss.md R150 to R154). ST is the "up"
branch and DN the "down" branch. -/

namespace Sys2Proof.Machine

/-- SETUP.DSS (R150). -/
def execSetupDss (s : State) : Result :=
  .next (if s.rateInvalid || s.keyWidthInvalid then s.raise .paramInvalid
    else (s.setupCipher .dss).complete)

/-- DSS.REKEY (R151). -/
def execDssRekey (ra : Reg) (s : State) : Result :=
  .next (if s.mode ≠ .dss then s.raise .notSetup
    else if eqW (s.getX ra) 0 then s.raise .invalidDomainValue
    else { s with key := s.getX ra, st := 0, dn := 0, phase := .keyed }.complete)

/-- DSS.INIT (R152): one CipherInit for both branches. -/
def execDssInit (ra : Reg) (s : State) : Result :=
  .next (if s.mode ≠ .dss then s.raise .notSetup
    else if s.phase = .uninit then s.raise .notKeyed
    else if eqW (s.getX ra) 0 then s.raise .invalidDomainValue
    else
      let p := s.cipherInit (s.getX ra)
      { s.logCalls p.2 with
        st := upBranch p.1, dn := downBranch p.1, phase := .initialized }.complete)

/-- DSS.NEXT (R153): both permutations are computed from the old branches, "up" first (R154). -/
def execDssNext (rd : Reg) (s : State) : Result :=
  .next (if s.mode ≠ .dss then s.raise .notSetup
    else if s.phase ≠ .initialized then s.raise .notInitialized
    else
      let u := permute Config.P s.st
      let d := permute Config.P s.dn
      let v := dssShared u.1 d.1 s.rmask
      ({ s.logCalls (u.2 ++ d.2) with st := upBranch v, dn := downBranch v }.setX rd
        (d.1 &&& s.rmask)).complete)

end Sys2Proof.Machine
end

