-- ==== Sys2Proof/Machine/Duplex.lean ====
section
/-! DEFINITION. SETUP.DUP, DUP.RESET and DUP.DUPLEX (spec 44_duplex.md R130, R132 to R134). -/

namespace Sys2Proof.Machine

/-- The keys SETUP.DUP writes (R130): key i is sample i of the command, masked to k bits, for i < u; the
rest are as EngineClear left them. -/
def State.sampledKeys (s : State) : Vector Word Config.UMAX :=
  Vector.ofFn fun i =>
    if i.val < s.cfg.u.toNat then s.sample i.val &&& mask Config.W s.cfg.k.toNat else 0

/-- SETUP.DUP (R130): 4·u draws, key 0's limb 0 first. -/
def execSetupDup (s : State) : Result :=
  .next (if s.rateInvalid || s.keyWidthInvalid || s.keyCountInvalid then s.raise .paramInvalid
    else
      { s.engineClear.consumeDraws (4 * s.cfg.u.toNat) with
        par := { Params.zero with r := s.cfg.r, k := s.cfg.k, u := s.cfg.u, alpha := s.cfg.alpha }
        rmask := mask Config.W s.cfg.r.toNat
        kmask := mask Config.W s.cfg.k.toNat
        keys := s.sampledKeys
        st := 0
        mode := .dup
        phase := .uninit }.complete)

/-- DUP.RESET (R132): four draws, then one permutation call; the old content of ST is not used. -/
def execDupReset (ra : Reg) (s : State) : Result :=
  .next (if s.mode ≠ .dup then s.raise .notSetup
    else
      let idx := (s.getX ra).toNat % s.par.u.toNat
      let iv := s.sample 0 &&& ~~~s.kmask
      let p := permute Config.P (dupResetInput (s.keyAt idx) iv s.par.alpha.toNat)
      { (s.consumeDraws 4).logCalls p.2 with st := p.1 }.complete)

/-- DUP.DUPLEX (R133): the output is the rate as it stood before the permutation. -/
def execDupDuplex (rd ra : Reg) (f : Bool) (s : State) : Result :=
  .next (if s.mode ≠ .dup then s.raise .notSetup
    else
      let out := s.st &&& s.rmask
      let p := permute Config.P (duplexInput s.st s.rmask (s.getX ra) f)
      ({ s.logCalls p.2 with st := p.1 }.setX rd out).complete)

end Sys2Proof.Machine
end

