-- ==== Sys2Proof/Machine/Prng.lean ====
section
/-! DEFINITION. SETUP.PRG, PRG.REFRESH and PRG.NEXT (spec 47_prng.md R160, R161, R163). -/

namespace Sys2Proof.Machine

/-- The seeds SETUP.PRG writes (R160): seed i is sample i of the command, masked to the rate, for i < s;
the rest are as EngineClear left them. -/
def State.sampledSeeds (s : State) : Vector Word Config.SMAX :=
  Vector.ofFn fun i =>
    if i.val < s.cfg.s.toNat then s.sample i.val &&& mask Config.W s.cfg.r.toNat else 0

/-- SETUP.PRG (R160): 4·s + 4 draws, the seeds first and then the state. -/
def execSetupPrg (s : State) : Result :=
  .next (if s.rateInvalid || s.roundsInvalid || s.seedCountInvalid then s.raise .paramInvalid
    else
      { s.engineClear.consumeDraws (4 * s.cfg.s.toNat + 4) with
        par := { Params.zero with r := s.cfg.r, t := s.cfg.t, s := s.cfg.s }
        rmask := mask Config.W s.cfg.r.toNat
        seeds := s.sampledSeeds
        st := s.sample s.cfg.s.toNat &&& ~~~mask Config.W s.cfg.r.toNat
        j := 1
        mode := .prg
        phase := .uninit }.complete)

/-- PRG.REFRESH (R161): absorbs one input with the seed J, which then advances modulo PAR.s. -/
def execPrgRefresh (ra : Reg) (s : State) : Result :=
  .next (if s.mode ≠ .prg then s.raise .notSetup
    else
      let p := permute Config.P
        (prgRefreshInput s.st (s.getX ra) (s.seedAt s.j.toNat) s.rmask)
      { s.logCalls p.2 with
        st := p.1, j := BitVec.ofNat 16 ((s.j.toNat + 1) % s.par.s.toNat) }.complete)

/-- PRG.NEXT (R163): the result is the rate after the first permutation; then t−1 times the rate is
cleared and the state permuted. -/
def execPrgNext (rd : Reg) (s : State) : Result :=
  .next (if s.mode ≠ .prg then s.raise .notSetup
    else
      let first := permute Config.P s.st
      let rest := prgTruncate Config.P s.rmask (s.par.t.toNat - 1) first.1
      ({ s.logCalls (first.2 ++ rest.2) with st := rest.1, j := 1 }.setX rd
        (first.1 &&& s.rmask)).complete)

end Sys2Proof.Machine
end

