-- ==== Sys2Proof/Machine/ShiftRotate.lean ====
section
/-! DEFINITION. SHL, SHR, ROTL and ROTR (spec 41_mws_shift_rotate.md R100 to R104). -/

namespace Sys2Proof.Machine

/-- The form the four commands share: an amount of W or more raises `OperandRange` (R104, R175). -/
def shiftCommand (f : Word → Nat → Word) (rd ra : Reg) (imm16 : BitVec 16) (s : State) : State :=
  if Config.W ≤ amount imm16 then s.raise .operandRange
  else (s.setX rd (f (s.getX ra) (amount imm16))).complete

/-- SHL (R100). -/
def execShl (rd ra : Reg) (imm16 : BitVec 16) (s : State) : Result :=
  .next (shiftCommand shlW rd ra imm16 s)

/-- SHR (R101). -/
def execShr (rd ra : Reg) (imm16 : BitVec 16) (s : State) : Result :=
  .next (shiftCommand shrW rd ra imm16 s)

/-- ROTL (R102). -/
def execRotl (rd ra : Reg) (imm16 : BitVec 16) (s : State) : Result :=
  .next (shiftCommand rotlW rd ra imm16 s)

/-- ROTR (R103). -/
def execRotr (rd ra : Reg) (imm16 : BitVec 16) (s : State) : Result :=
  .next (shiftCommand rotrW rd ra imm16 s)

end Sys2Proof.Machine
end

