-- ==== Sys2Proof/Machine/System.lean ====
section
/-! DEFINITION. RAND, PERM, CSRW and CSRR (spec 43_perm_rand_csr.md R122, R126 to R128). -/

namespace Sys2Proof.Machine

/-- RAND (R128): four draws, limb 0 first. -/
def execRand (rd : Reg) (s : State) : Result :=
  .next ((s.consumeDraws 4).setX rd (s.sample 0)).complete

/-- PERM (R122): the wrapper applied once to a general register. -/
def execPerm (rd ra : Reg) (s : State) : Result :=
  let p := permute Config.P (s.getX ra)
  .next ((s.logCalls p.2).setX rd p.1).complete

/-- CSRW (R126): an unassigned or read-only CSR raises `IllegalCommand`; no value is rejected. -/
def execCsrw (csr : CsrNumber) (imm16 : BitVec 16) (s : State) : Result :=
  .next (match cfgReg? csr with
    | none => s.raise .illegalCommand
    | some c => (s.setCfg c imm16).complete)

/-- CSRR (R127): an unassigned CSR raises `IllegalCommand`; STATUS reads as it stood before this
command (R28). -/
def execCsrr (rd : Reg) (csr : CsrNumber) (s : State) : Result :=
  .next (match csr? csr with
    | none => s.raise .illegalCommand
    | some c => (s.setX rd ((s.readCsr c).setWidth Config.W)).complete)

end Sys2Proof.Machine
end

