-- ==== Sys2Proof/Machine/WrapArith.lean ====
section
/-! DEFINITION. ADD and SUB (spec 42_mws_arith.md R110 to R113). -/

namespace Sys2Proof.Machine

/-- ADD (R111). -/
def execAdd (rd ra rb : Reg) (s : State) : Result :=
  .next (s.setX rd (addW (s.getX ra) (s.getX rb))).complete

/-- SUB (R113). -/
def execSub (rd ra rb : Reg) (s : State) : Result :=
  .next (s.setX rd (subW (s.getX ra) (s.getX rb))).complete

end Sys2Proof.Machine
end

