-- ==== Sys2Proof/Machine/Dispatch.lean ====
section
/-! DEFINITION. The meaning of every command, one arm a constructor. -/

namespace Sys2Proof.Machine

/-- What a command does (R77, step 3). -/
def exec (i : Instr) (s : State) : Host.Outcome State Fault Refusal :=
  match i with
  | .not rd ra => Sys2Proof.Machine.execNot rd ra s
  | .and rd ra rb => Sys2Proof.Machine.execAnd rd ra rb s
  | .or rd ra rb => Sys2Proof.Machine.execOr rd ra rb s
  | .xor rd ra rb => Sys2Proof.Machine.execXor rd ra rb s
  | .cmpeq ra rb => Sys2Proof.Machine.execCmpeq ra rb s
  | .shl rd ra imm16 => Sys2Proof.Machine.execShl rd ra imm16 s
  | .shr rd ra imm16 => Sys2Proof.Machine.execShr rd ra imm16 s
  | .rotl rd ra imm16 => Sys2Proof.Machine.execRotl rd ra imm16 s
  | .rotr rd ra imm16 => Sys2Proof.Machine.execRotr rd ra imm16 s
  | .add rd ra rb => Sys2Proof.Machine.execAdd rd ra rb s
  | .sub rd ra rb => Sys2Proof.Machine.execSub rd ra rb s
  | .rand rd => Sys2Proof.Machine.execRand rd s
  | .perm rd ra => Sys2Proof.Machine.execPerm rd ra s
  | .csrw csr imm16 => Sys2Proof.Machine.execCsrw csr imm16 s
  | .csrr rd csr => Sys2Proof.Machine.execCsrr rd csr s
  | .setupDup => Sys2Proof.Machine.execSetupDup s
  | .dupReset ra => Sys2Proof.Machine.execDupReset ra s
  | .dupDuplex rd ra f => Sys2Proof.Machine.execDupDuplex rd ra f s
  | .setupAsk => Sys2Proof.Machine.execSetupAsk s
  | .askRekey ra => Sys2Proof.Machine.execAskRekey ra s
  | .askInit ra => Sys2Proof.Machine.execAskInit ra s
  | .askNext rd => Sys2Proof.Machine.execAskNext rd s
  | .setupDss => Sys2Proof.Machine.execSetupDss s
  | .dssRekey ra => Sys2Proof.Machine.execDssRekey ra s
  | .dssInit ra => Sys2Proof.Machine.execDssInit ra s
  | .dssNext rd => Sys2Proof.Machine.execDssNext rd s
  | .setupPrg => Sys2Proof.Machine.execSetupPrg s
  | .prgRefresh ra => Sys2Proof.Machine.execPrgRefresh ra s
  | .prgNext rd => Sys2Proof.Machine.execPrgNext rd s

end Sys2Proof.Machine
end

