-- ==== Sys2Proof/Machine/Port.lean ====
section
/-! DEFINITION. What the core does with one host interaction (spec 70_reset_and_hazards.md R200) and where
the next one comes from. -/

namespace Sys2Proof.Machine

/-- A word on the command port (R77): the command it decodes to, or `IllegalCommand` (R76, R174). -/
def runCommand (w : CommandWord) (s : State) : Result :=
  match decode w with
  | .ok i => exec i s
  | .error _ => .next (s.raise .illegalCommand)

/-- One interaction of R200, atomically (R60, R195, R196). -/
def perform (req : HostRequest) (s : State) : Result :=
  match req with
  | .command w => runCommand w s
  | .write addr v => .next (s.memWrite addr v)
  | .read addr => .next (s.answerRead addr)
  | .reset => .next s.resetCore

/-- The command word put at the head of the host's queue. -/
def State.pushCommand (s : State) (w : CommandWord) : State :=
  { s with inbox := .command w :: s.inbox }

end Sys2Proof.Machine
end

