-- ==== Sys2Proof/Machine/Step.lean ====
section
/-! DEFINITION. One step: the oldest host interaction, start to end (spec 10_state.md R22,
70_reset_and_hazards.md R195, R200, R201). There is no program counter and no fetch; the host's queue
stands for the order in which the host issues its interactions (assumption log 4). -/

namespace Sys2Proof.Machine

/-- One step. With nothing to do the core is idle, and its state stays as it is (R201). -/
def step (s : State) : Host.Outcome State Fault Refusal :=
  match s.inbox with
  | [] => .next s
  | req :: rest => perform req { s with inbox := rest }

/-- `s` with the command of low `nbits` bits `w` as the host's next interaction (log 4, log 8). -/
def State.withFetchWord (s : State) (nbits w : Nat) : State := s.pushCommand (tableWord nbits w)

end Sys2Proof.Machine
end

