-- ==== Sys2Proof/Machine/Pseudo.lean ====
section
/-! DEFINITION. The pseudo-instructions, which the host expands into commands (spec 30_encoding.md R80,
45_asakey.md R146, 46_dss.md R155, 47_prng.md R162). None has an encoding, and no command uses this
file. -/

namespace Sys2Proof.Machine

/-- `MOV rd, ra` (R80). -/
def mov (rd ra : Reg) : Instr := .or rd ra ra

/-- `CLR rd` (R80). -/
def clr (rd : Reg) : Instr := .xor rd rd rd

/-- Why the assembler refuses a pseudo-instruction, so that no command is issued (R162). -/
inductive AssemblyError where
  /-- `PRG.REFRESHN` with an empty list. -/
  | emptyList
deriving DecidableEq, Repr

/-- `PRG.REFRESHN inputs` (R162): one PRG.REFRESH per listed register, in list order. The assembler
refuses an empty list. -/
def refreshN (inputs : List Reg) : Except AssemblyError (List Instr) :=
  if inputs.isEmpty then .error .emptyList else .ok (inputs.map .prgRefresh)

/-- The host issues one command and waits for its response, which is `err` of the result (R171). -/
def issue (i : Instr) (s : State) : State :=
  match exec i s with
  | .next t => t
  | .fault _ => s
  | .refused _ => s

/-- The host issues commands in order and stops at the first nonzero response (R146, R162). -/
def issueAll : List Instr → State → State
  | [], s => s
  | i :: rest, s =>
    let t := issue i s
    if t.err = .ok then issueAll rest t else t

/-- `PRG.REFRESHN inputs` issued by the host (R162): the state the commands end in, or the assembler's
refusal. -/
def refreshAll (inputs : List Reg) (s : State) : Except AssemblyError State :=
  (refreshN inputs).map fun cmds => issueAll cmds s

/-- The two stream ciphers, whose ENCRYPT and DECRYPT have one expansion (R146, R155). -/
inductive Cipher where
  | ask | dss
deriving DecidableEq, Repr

/-- The mode the cipher's commands need. -/
def Cipher.mode : Cipher → Mode
  | .ask => .ask
  | .dss => .dss

/-- The cipher's REKEY. -/
def Cipher.rekey : Cipher → Reg → Instr
  | .ask, r => .askRekey r
  | .dss, r => .dssRekey r

/-- The cipher's INIT. -/
def Cipher.init : Cipher → Reg → Instr
  | .ask, r => .askInit r
  | .dss, r => .dssInit r

/-- The cipher's NEXT. -/
def Cipher.next : Cipher → Reg → Instr
  | .ask, r => .askNext r
  | .dss, r => .dssNext r

/-- The loop of R146: `count` NEXTs into the scratch register, each result read by the host. A nonzero
response stops it. -/
def collectChunks (c : Cipher) (xt : Reg) : (count : Nat) → State → List Word × State
  | 0, s => ([], s)
  | count + 1, s =>
    let t := issue (c.next xt) s
    if t.err = .ok then
      let rest := collectChunks c xt count t
      (t.getX xt :: rest.1, rest.2)
    else ([], t)

/-- Keystream bit `g` (R146): bit `g mod r` of chunk `floor(g/r)`. -/
def keystreamBit (r : Nat) (chunks : List Word) (g : Nat) : Bool :=
  (chunks[g / r]?.getD 0).getLsbD (g % r)

/-- Keystream byte `m` (R146): bits `8m` to `8m+7`, the first in the least-significant place. -/
def keystreamByte (r : Nat) (chunks : List Word) (m : Nat) : Byte :=
  BitVec.ofNat 8 ((List.range 8).map fun j => (keystreamBit r chunks (8 * m + j)).toNat * 2 ^ j).sum

/-- `data XOR keystream`, byte by byte (R146). -/
def xorKeystream (r : Nat) (chunks : List Word) (data : List Byte) : List Byte :=
  data.mapIdx fun m b => b ^^^ keystreamByte r chunks m

/-- The number of NEXTs for `len` bytes (R146): `ceil(8·len / r)`. -/
def chunkCount (len r : Nat) : Nat := (8 * len + r - 1) / r

/-- `ASK.ENCRYPT`/`DSS.ENCRYPT xk, xn, data` and the DECRYPTs, which are the same expansion (R146, R155):
the output and the state it ends in. `xt` is the scratch register. The response of the first failing
command stands in `err`, and then the output is empty (log 9). -/
def encrypt (c : Cipher) (xk xn xt : Reg) (data : List Byte) (s : State) :
    List Byte × State :=
  let keyed := issueAll [c.rekey xk, c.init xn] s
  if keyed.err = .ok then
    let r := keyed.par.r.toNat
    let chunks := collectChunks c xt (chunkCount data.length r) keyed
    if chunks.2.err = .ok then (xorKeystream r chunks.1 data, chunks.2) else ([], chunks.2)
  else ([], keyed)

end Sys2Proof.Machine
end

