-- ==== Sys2Proof/Safety.lean ====
section
/-! DEFINITION. The terms in which claims about CT-CORE are stated: the invariants of the engine registers
(spec 10_state.md R30 to R36, 46_dss.md R156), what a command leaves alone, and the kinds of
commands. -/

namespace Sys2Proof.Machine

/-- The engine registers hold what the rules promise while an instance is set up. -/
structure State.Inv (s : State) : Prop where
  /-- `0 < PAR.r ≤ W` and `RMASK = MASK(PAR.r)` while MODE ≠ NONE (R32). -/
  rate : s.mode ≠ .none →
    0 < s.par.r.toNat ∧ s.par.r.toNat ≤ Config.W ∧ s.rmask = mask Config.W s.par.r.toNat
  /-- `0 < PAR.k ≤ W` and `KMASK = MASK(PAR.k)` in modes DUP, ASK and DSS (R32). -/
  keyWidth : s.mode = .dup ∨ s.mode = .ask ∨ s.mode = .dss →
    0 < s.par.k.toNat ∧ s.par.k.toNat ≤ Config.W ∧ s.kmask = mask Config.W s.par.k.toNat
  /-- `1 ≤ PAR.u ≤ UMAX` in mode DUP (R32), and every key is masked to k bits (R35). -/
  dupKeys : s.mode = .dup →
    1 ≤ s.par.u.toNat ∧ s.par.u.toNat ≤ Config.UMAX ∧
      ∀ i < s.par.u.toNat, s.keyAt i &&& ~~~s.kmask = 0
  /-- `PAR.t ≥ 1`, `2 ≤ PAR.s ≤ SMAX` (R32) and `J < PAR.s` (R36) in mode PRG, and every seed is masked
  to the rate (R36). -/
  prgSeeds : s.mode = .prg →
    1 ≤ s.par.t.toNat ∧ 2 ≤ s.par.s.toNat ∧ s.par.s.toNat ≤ Config.SMAX ∧
      s.j.toNat < s.par.s.toNat ∧ ∀ i < s.par.s.toNat, s.seedAt i &&& ~~~s.rmask = 0
  /-- PHASE is 0 in modes NONE, DUP and PRG (R31). -/
  phaseMode : s.phase ≠ .uninit → s.mode = .ask ∨ s.mode = .dss
  /-- A key that is present is not zero (R31, R141, R151). -/
  keyPresent : s.phase ≠ .uninit → s.key ≠ 0
  /-- The two DSS branches differ in bit W-1 only, which is 0 in "up" and 1 in "down" (R156). -/
  branches : s.mode = .dss → s.phase = .initialized →
    s.st.getLsbD (Config.W - 1) = false ∧ s.dn.getLsbD (Config.W - 1) = true ∧
      ∀ b < Config.W - 1, s.st.getLsbD b = s.dn.getLsbD b

/-- `t` is `s` after a command that succeeded, wrote only the listed general register, and had the listed
port events before its response (R171). -/
def WroteOnly (rd : Reg) (v : Word) (events : List PortEvent) (s t : State) : Prop :=
  t.getX rd = v ∧ (∀ r, r ≠ rd → t.getX r = s.getX r) ∧
    t = { s with x := t.x, err := .ok, log := s.log ++ events ++ [.response .ok] }

/-- `t` is `s` after a command that ended with the response `e`, with no other write, no permutation call
and no draw (R172). -/
def OnlyResponded (e : Response) (s t : State) : Prop :=
  t = { s with err := e, log := s.log ++ [.response e] }

/-- No engine register differs (the registers of R30 to R36). -/
def SameEngine (s t : State) : Prop :=
  t.mode = s.mode ∧ t.phase = s.phase ∧ t.par = s.par ∧ t.rmask = s.rmask ∧ t.kmask = s.kmask ∧
    t.st = s.st ∧ t.dn = s.dn ∧ t.key = s.key ∧ t.keys = s.keys ∧ t.seeds = s.seeds ∧ t.j = s.j

/-- The two states agree on all that the host can observe of the core at rest: the data window, STATUS
and the configuration CSRs (R37, R54, R127). -/
def SameVisible (s t : State) : Prop :=
  t.x = s.x ∧ t.eqFlag = s.eqFlag ∧ t.err = s.err ∧ t.cfg = s.cfg ∧ t.mode = s.mode ∧ t.phase = s.phase

/-- `SameVisible` but for the general register `rd`. -/
def SameVisibleBut (rd : Reg) (s t : State) : Prop :=
  (∀ r, r ≠ rd → t.getX r = s.getX r) ∧ t.eqFlag = s.eqFlag ∧ t.err = s.err ∧ t.cfg = s.cfg ∧
    t.mode = s.mode ∧ t.phase = s.phase

/-- The event is a permutation call. -/
def PortEvent.isCall : PortEvent → Bool
  | .permCall _ _ => true
  | .draw _ | .response _ | .readData _ => false

/-- The event is a draw. -/
def PortEvent.isDraw : PortEvent → Bool
  | .draw _ => true
  | .permCall _ _ | .response _ | .readData _ => false

/-- The event is an answer of the permutation unit that is `P` of what it was asked (R121), a draw, or an
event of the host's ports. -/
def PortEvent.Answered : PortEvent → Prop
  | .permCall input output => output = Config.P input
  | .draw _ | .response _ | .readData _ => True

end Sys2Proof.Machine

namespace Sys2Proof

/-- The SETUP commands. -/
def Instr.isSetup : Instr → Bool
  | .setupDup | .setupAsk | .setupDss | .setupPrg => true
  | .not _ _ | .and _ _ _ | .or _ _ _ | .xor _ _ _ | .cmpeq _ _ | .shl _ _ _ | .shr _ _ _
  | .rotl _ _ _ | .rotr _ _ _ | .add _ _ _ | .sub _ _ _ | .rand _ | .perm _ _ | .csrw _ _
  | .csrr _ _ | .dupReset _ | .dupDuplex _ _ _ | .askRekey _ | .askInit _ | .askNext _
  | .dssRekey _ | .dssInit _ | .dssNext _ | .prgRefresh _ | .prgNext _ => false

/-- The mode a session command needs (R177); none for the commands that work in every MODE (R192). -/
def Instr.sessionMode : Instr → Option Machine.Mode
  | .dupReset _ | .dupDuplex _ _ _ => some .dup
  | .askRekey _ | .askInit _ | .askNext _ => some .ask
  | .dssRekey _ | .dssInit _ | .dssNext _ => some .dss
  | .prgRefresh _ | .prgNext _ => some .prg
  | .not _ _ | .and _ _ _ | .or _ _ _ | .xor _ _ _ | .cmpeq _ _ | .shl _ _ _ | .shr _ _ _
  | .rotl _ _ _ | .rotr _ _ _ | .add _ _ _ | .sub _ _ _ | .rand _ | .perm _ _ | .csrw _ _
  | .csrr _ _ | .setupDup | .setupAsk | .setupDss | .setupPrg => none

/-- How many draws a command makes when it succeeds (R125). -/
def Instr.draws (s : Machine.State) : Instr → Nat
  | .rand _ => 4
  | .setupDup => 4 * s.cfg.u.toNat
  | .dupReset _ => 4
  | .setupPrg => 4 * s.cfg.s.toNat + 4
  | .not _ _ | .and _ _ _ | .or _ _ _ | .xor _ _ _ | .cmpeq _ _ | .shl _ _ _ | .shr _ _ _
  | .rotl _ _ _ | .rotr _ _ _ | .add _ _ _ | .sub _ _ _ | .perm _ _ | .csrw _ _ | .csrr _ _
  | .dupDuplex _ _ _ | .setupAsk | .askRekey _ | .askInit _ | .askNext _ | .setupDss
  | .dssRekey _ | .dssInit _ | .dssNext _ | .prgRefresh _ | .prgNext _ => 0

/-- How many permutation calls a command makes when it succeeds (R63 and each command's rule). -/
def Instr.permCalls (s : Machine.State) : Instr → Nat
  | .perm _ _ | .dupReset _ | .dupDuplex _ _ _ | .askNext _ | .prgRefresh _ => 1
  | .dssNext _ => 2
  | .askInit _ | .dssInit _ => s.par.k.toNat + 1
  | .prgNext _ => s.par.t.toNat
  | .not _ _ | .and _ _ _ | .or _ _ _ | .xor _ _ _ | .cmpeq _ _ | .shl _ _ _ | .shr _ _ _
  | .rotl _ _ _ | .rotr _ _ _ | .add _ _ _ | .sub _ _ _ | .rand _ | .csrw _ _ | .csrr _ _
  | .setupDup | .setupAsk | .askRekey _ | .setupDss | .dssRekey _ | .setupPrg => 0

/-- The register through which a session command lets information out of the engine (R37): the four
commands that write the rate of a state to `x[rd]`. -/
def Instr.outputReg : Instr → Option Reg
  | .dupDuplex rd _ _ | .askNext rd | .dssNext rd | .prgNext rd => some rd
  | .not _ _ | .and _ _ _ | .or _ _ _ | .xor _ _ _ | .cmpeq _ _ | .shl _ _ _ | .shr _ _ _
  | .rotl _ _ _ | .rotr _ _ _ | .add _ _ _ | .sub _ _ _ | .rand _ | .perm _ _ | .csrw _ _
  | .csrr _ _ | .setupDup | .dupReset _ | .setupAsk | .askRekey _ | .askInit _ | .setupDss
  | .dssRekey _ | .dssInit _ | .setupPrg | .prgRefresh _ => none

end Sys2Proof
end

