-- ==== Sys2Proof/Certificates/Slice0/Obligations.lean ====
section
/-! DEFINITION. The statements about CT-CORE that the provers settle. Each says which rules of spec/ it
formalises; the parameters of R6, the permutation P and the draws are constants without a body, so each
statement is about every instance and every sequence of draws. -/

open Sys2Proof Sys2Proof.Machine

/-! ### MWS-ALU -/

/-- R90 to R93, R95: NOT, AND, OR and XOR complete in every state and write, limb by limb, the limb
operation on the same-numbered limbs; nothing else changes. -/
def Obligations.BitwiseCommandsWorkLimbByLimb : Prop :=
  ∀ (s : State) (rd ra rb : Reg),
    (∃ t, exec (.not rd ra) s = .next t ∧ WroteOnly rd (t.getX rd) [] s t ∧
      ∀ i, (limb (t.getX rd) i).toNat = 2 ^ Config.N - 1 - (limb (s.getX ra) i).toNat) ∧
    (∃ t, exec (.and rd ra rb) s = .next t ∧ WroteOnly rd (t.getX rd) [] s t ∧
      ∀ i, limb (t.getX rd) i = limb (s.getX ra) i &&& limb (s.getX rb) i) ∧
    (∃ t, exec (.or rd ra rb) s = .next t ∧ WroteOnly rd (t.getX rd) [] s t ∧
      ∀ i, limb (t.getX rd) i = limb (s.getX ra) i ||| limb (s.getX rb) i) ∧
    (∃ t, exec (.xor rd ra rb) s = .next t ∧ WroteOnly rd (t.getX rd) [] s t ∧
      ∀ i, limb (t.getX rd) i = limb (s.getX ra) i ^^^ limb (s.getX rb) i)

/-- R94, R23: CMPEQ completes in every state and sets EQ exactly when all four limbs are pairwise equal,
which is when the W-bit integers are equal; no register and nothing else changes; and no other command
changes EQ, whether it succeeds or fails. -/
def Obligations.CmpeqAloneSetsEq : Prop :=
  (∀ (s : State) (ra rb : Reg), ∃ t, exec (.cmpeq ra rb) s = .next t ∧
    (t.eqFlag = true ↔ ∀ i, limb (s.getX ra) i = limb (s.getX rb) i) ∧
    (t.eqFlag = true ↔ (s.getX ra).toNat = (s.getX rb).toNat) ∧
    t = { s with eqFlag := t.eqFlag, err := .ok, log := s.log ++ [.response .ok] }) ∧
  (∀ (i : Instr) (s t : State), exec i s = .next t → (∀ ra rb, i ≠ .cmpeq ra rb) →
    t.eqFlag = s.eqFlag)

/-- R100: an SHL in range completes and its result is `(a · 2^s) mod 2^W`, although it is defined by
repeated limb shifts; only `rd` changes. -/
def Obligations.ShlMultipliesByPowerOfTwo : Prop :=
  ∀ (s : State) (rd ra : Reg) (imm16 : BitVec 16), imm16.toNat < Config.W →
    ∃ t, exec (.shl rd ra imm16) s = .next t ∧ WroteOnly rd (t.getX rd) [] s t ∧
      (t.getX rd).toNat = (s.getX ra).toNat * 2 ^ imm16.toNat % 2 ^ Config.W

/-- R101: an SHR in range completes and its result is `floor(a / 2^s)`; only `rd` changes. -/
def Obligations.ShrDividesByPowerOfTwo : Prop :=
  ∀ (s : State) (rd ra : Reg) (imm16 : BitVec 16), imm16.toNat < Config.W →
    ∃ t, exec (.shr rd ra imm16) s = .next t ∧ WroteOnly rd (t.getX rd) [] s t ∧
      (t.getX rd).toNat = (s.getX ra).toNat / 2 ^ imm16.toNat

/-- R102: a ROTL in range completes and result bit `(m + s) mod W` is bit m of the operand, for every m;
only `rd` changes. -/
def Obligations.RotlMovesEveryBitUp : Prop :=
  ∀ (s : State) (rd ra : Reg) (imm16 : BitVec 16), imm16.toNat < Config.W →
    ∃ t, exec (.rotl rd ra imm16) s = .next t ∧ WroteOnly rd (t.getX rd) [] s t ∧
      ∀ m < Config.W, (t.getX rd).getLsbD ((m + imm16.toNat) % Config.W) = (s.getX ra).getLsbD m

/-- R103: a ROTR in range completes and result bit m is bit `(m + s) mod W` of the operand, for every m;
only `rd` changes. -/
def Obligations.RotrMovesEveryBitDown : Prop :=
  ∀ (s : State) (rd ra : Reg) (imm16 : BitVec 16), imm16.toNat < Config.W →
    ∃ t, exec (.rotr rd ra imm16) s = .next t ∧ WroteOnly rd (t.getX rd) [] s t ∧
      ∀ m < Config.W, (t.getX rd).getLsbD m = (s.getX ra).getLsbD ((m + imm16.toNat) % Config.W)

/-- R111, R110: ADD completes in every state and its result is `(a + b) mod 2^W`, although it is defined
by four limb additions with a carry; only `rd` changes. -/
def Obligations.AddIsModularAddition : Prop :=
  ∀ (s : State) (rd ra rb : Reg), ∃ t, exec (.add rd ra rb) s = .next t ∧
    WroteOnly rd (t.getX rd) [] s t ∧
    (t.getX rd).toNat = ((s.getX ra).toNat + (s.getX rb).toNat) % 2 ^ Config.W

/-- R113, R110: SUB completes in every state and its result is `(a − b) mod 2^W`; only `rd` changes. -/
def Obligations.SubIsModularSubtraction : Prop :=
  ∀ (s : State) (rd ra rb : Reg), ∃ t, exec (.sub rd ra rb) s = .next t ∧
    WroteOnly rd (t.getX rd) [] s t ∧
    ((t.getX rd).toNat : Int) = (((s.getX ra).toNat : Int) - (s.getX rb).toNat) % 2 ^ Config.W

/-- R112: `NEG_W(b) = ADD_W(NOT_W(b), ONE)`, its closed form `(2^W − b) mod 2^W`, and the corner cases of
zero and of `2^(W−1)`, for every limb width. -/
def Obligations.NegIsTwosComplement : Prop :=
  ∀ (n : Nat) (b : Mws n), negW b = addW (~~~b) (ofLimbs 1 0 0 0) ∧
    (negW b).toNat = (2 ^ (4 * n) - b.toNat) % 2 ^ (4 * n) ∧
    negW (0 : Mws n) = 0 ∧ negW (domBit (4 * n) : Mws n) = domBit (4 * n)

/-- R114: addition is commutative and associative modulo `2^W`, and subtracting what was added gives the
operand back, for every limb width. -/
def Obligations.WrappingArithmeticLaws : Prop :=
  ∀ (n : Nat) (a b c : Mws n), addW a b = addW b a ∧ addW (addW a b) c = addW a (addW b c) ∧
    subW (addW a b) b = a

/-- R80: MOV copies a register and CLR sets one to zero; only `rd` changes. -/
def Obligations.MovCopiesAndClrClears : Prop :=
  ∀ (s : State) (rd ra : Reg),
    (∃ t, exec (mov rd ra) s = .next t ∧ WroteOnly rd (s.getX ra) [] s t) ∧
    (∃ t, exec (clr rd) s = .next t ∧ WroteOnly rd 0 [] s t)

/-! ### Permutation, randomness, CSRs -/

/-- R122, R121: PERM completes in every state, writes `P` of the operand, and makes exactly one
permutation-port event; no engine register and nothing else changes. -/
def Obligations.PermAppliesThePermutationOnce : Prop :=
  ∀ (s : State) (rd ra : Reg), ∃ t, exec (.perm rd ra) s = .next t ∧
    WroteOnly rd (Config.P (s.getX ra)) [.permCall (s.getX ra) (Config.P (s.getX ra))] s t

/-- R128, R124: RAND completes in every state and limb i of its result is draw i of four, limb 0 first;
only `rd` changes and four draws are made. -/
def Obligations.RandWritesFourDraws : Prop :=
  ∀ (s : State) (rd : Reg), ∃ t, exec (.rand rd) s = .next t ∧
    (∀ i : Fin 4, limb (t.getX rd) i = Config.draw (s.drawn + i.val)) ∧
    (∀ r, r ≠ rd → t.getX r = s.getX r) ∧
    t = { s with
      x := t.x, err := .ok, drawn := s.drawn + 4
      log := s.log ++ [.draw (Config.draw s.drawn), .draw (Config.draw (s.drawn + 1)),
        .draw (Config.draw (s.drawn + 2)), .draw (Config.draw (s.drawn + 3)), .response .ok] }

/-- R126, R27: CSRW of CSR 0 to 5 completes for every value and writes exactly that configuration CSR;
every other CSR number raises `IllegalCommand` and writes nothing. -/
def Obligations.CsrwWritesConfigurationOnly : Prop :=
  ∀ (s : State) (v : BitVec 16),
    exec (.csrw 0 v) s = .next { s with cfg := { s.cfg with r := v } }.complete ∧
    exec (.csrw 1 v) s = .next { s with cfg := { s.cfg with k := v } }.complete ∧
    exec (.csrw 2 v) s = .next { s with cfg := { s.cfg with u := v } }.complete ∧
    exec (.csrw 3 v) s = .next { s with cfg := { s.cfg with alpha := v } }.complete ∧
    exec (.csrw 4 v) s = .next { s with cfg := { s.cfg with t := v } }.complete ∧
    exec (.csrw 5 v) s = .next { s with cfg := { s.cfg with s := v } }.complete ∧
    ∀ n : CsrNumber, 5 < n.val →
      ∃ t, exec (.csrw n v) s = .next t ∧ OnlyResponded .illegalCommand s t

/-- R127, R27, R29: CSRR of an assigned CSR completes and writes its 16-bit value, zero-extended, to
`rd` only; an unassigned CSR raises `IllegalCommand` and writes nothing. -/
def Obligations.CsrrReadsEveryAssignedCsr : Prop :=
  ∀ (s : State) (rd : Reg) (n : CsrNumber),
    (∀ v : Nat, (n.val, v) ∈ [(0, s.cfg.r.toNat), (1, s.cfg.k.toNat), (2, s.cfg.u.toNat),
        (3, s.cfg.alpha.toNat), (4, s.cfg.t.toNat), (5, s.cfg.s.toNat),
        (8, s.statusWord.toNat), (9, Config.N), (10, Config.UMAX), (11, Config.SMAX)] →
      ∃ t, exec (.csrr rd n) s = .next t ∧ WroteOnly rd (t.getX rd) [] s t ∧
        (t.getX rd).toNat = v) ∧
    (n.val = 6 ∨ n.val = 7 ∨ 12 ≤ n.val →
      ∃ t, exec (.csrr rd n) s = .next t ∧ OnlyResponded .illegalCommand s t)

/-- R28, R30, R31, R173: a CSRR of STATUS gives ERR as it was before the command in bits 3:0, EQ in bit 4,
MODE in bits 10:8 and PHASE in bits 12:11 under their numbers, and zero elsewhere; ERR is 0 after it. -/
def Obligations.StatusShowsErrEqModePhase : Prop :=
  ∀ (s : State) (rd : Reg), ∃ t, exec (.csrr rd 8) s = .next t ∧ t.err = .ok ∧
    ∃ e q m p : Nat,
      (s.err, e) ∈ [(Response.ok, 0), (.illegalCommand, 1), (.operandRange, 2), (.paramInvalid, 3),
        (.notSetup, 4), (.notKeyed, 5), (.notInitialized, 6), (.invalidDomainValue, 7)] ∧
      (s.eqFlag, q) ∈ [(false, 0), (true, 1)] ∧
      (s.mode, m) ∈ [(Mode.none, 0), (.dup, 1), (.ask, 2), (.dss, 3), (.prg, 4)] ∧
      (s.phase, p) ∈ [(Phase.uninit, 0), (.keyed, 1), (.initialized, 2)] ∧
      (t.getX rd).toNat = e + 2 ^ 4 * q + 2 ^ 8 * m + 2 ^ 11 * p

/-! ### Setup -/

/-- R130, R41: SETUP.DUP with parameters in range completes: it latches r, k, u and α, sets both masks,
writes key i < u with draws 4i to 4i+3 masked to k bits, limb 0 first, and zeroes every other engine
register; general registers, EQ and the configuration CSRs are not touched. -/
def Obligations.SetupDupBuildsTheInstance : Prop :=
  ∀ s : State, 0 < s.cfg.r.toNat → s.cfg.r.toNat ≤ Config.W → 0 < s.cfg.k.toNat →
    s.cfg.k.toNat ≤ Config.W → 0 < s.cfg.u.toNat → s.cfg.u.toNat ≤ Config.UMAX →
    ∃ t, exec .setupDup s = .next t ∧
      t.mode = .dup ∧ t.phase = .uninit ∧ t.par = ⟨s.cfg.r, s.cfg.k, s.cfg.u, s.cfg.alpha, 0, 0⟩ ∧
      t.rmask.toNat = 2 ^ s.cfg.r.toNat - 1 ∧ t.kmask.toNat = 2 ^ s.cfg.k.toNat - 1 ∧
      t.st = 0 ∧ t.dn = 0 ∧ t.key = 0 ∧ t.j = 0 ∧ (∀ i, t.seedAt i = 0) ∧
      (∀ i < s.cfg.u.toNat, ∀ l : Fin 4,
        limb (t.keyAt i) l = Config.draw (s.drawn + 4 * i + l.val) &&& limb t.kmask l) ∧
      (∀ i, s.cfg.u.toNat ≤ i → t.keyAt i = 0) ∧
      t.x = s.x ∧ t.eqFlag = s.eqFlag ∧ t.cfg = s.cfg ∧ t.err = .ok ∧ t.inbox = s.inbox ∧
      t.drawn = s.drawn + 4 * s.cfg.u.toNat ∧
      t.log = s.log ++ drawEvents s.drawn (4 * s.cfg.u.toNat) ++ [.response .ok]

/-- R140, R150, R41: SETUP.ASK and SETUP.DSS with parameters in range complete: they latch r and k, set
both masks, leave no key and no session, and zero every other engine register; they differ in MODE only
and make no draw and no permutation call. -/
def Obligations.SetupAskAndDssBuildTheInstance : Prop :=
  ∀ s : State, 0 < s.cfg.r.toNat → s.cfg.r.toNat ≤ Config.W → 0 < s.cfg.k.toNat →
    s.cfg.k.toNat ≤ Config.W →
    ∀ im ∈ [(Instr.setupAsk, Mode.ask), (Instr.setupDss, Mode.dss)],
      ∃ t, exec im.1 s = .next t ∧
        t.mode = im.2 ∧ t.phase = .uninit ∧ t.par = ⟨s.cfg.r, s.cfg.k, 0, 0, 0, 0⟩ ∧
        t.rmask.toNat = 2 ^ s.cfg.r.toNat - 1 ∧ t.kmask.toNat = 2 ^ s.cfg.k.toNat - 1 ∧
        t.st = 0 ∧ t.dn = 0 ∧ t.key = 0 ∧ t.j = 0 ∧ (∀ i, t.keyAt i = 0) ∧ (∀ i, t.seedAt i = 0) ∧
        t.x = s.x ∧ t.eqFlag = s.eqFlag ∧ t.cfg = s.cfg ∧ t.err = .ok ∧ t.inbox = s.inbox ∧
        t.drawn = s.drawn ∧ t.log = s.log ++ [.response .ok]

/-- R160, R41: SETUP.PRG with parameters in range completes: it latches r, t and s, sets the rate mask,
writes seed i < s with draws 4i to 4i+3 masked to the rate and ST with the last four draws, rate bits
cleared, sets J to 1, and zeroes every other engine register. -/
def Obligations.SetupPrgBuildsTheInstance : Prop :=
  ∀ s : State, 0 < s.cfg.r.toNat → s.cfg.r.toNat ≤ Config.W → 0 < s.cfg.t.toNat →
    1 < s.cfg.s.toNat → s.cfg.s.toNat ≤ Config.SMAX →
    ∃ t, exec .setupPrg s = .next t ∧
      t.mode = .prg ∧ t.phase = .uninit ∧ t.par = ⟨s.cfg.r, 0, 0, 0, s.cfg.t, s.cfg.s⟩ ∧
      t.rmask.toNat = 2 ^ s.cfg.r.toNat - 1 ∧ t.kmask = 0 ∧
      t.dn = 0 ∧ t.key = 0 ∧ t.j = 1 ∧ (∀ i, t.keyAt i = 0) ∧
      (∀ i < s.cfg.s.toNat, ∀ l : Fin 4,
        limb (t.seedAt i) l = Config.draw (s.drawn + 4 * i + l.val) &&& limb t.rmask l) ∧
      (∀ i, s.cfg.s.toNat ≤ i → t.seedAt i = 0) ∧
      (∀ l : Fin 4, limb t.st l =
        Config.draw (s.drawn + 4 * s.cfg.s.toNat + l.val) &&& limb (~~~t.rmask) l) ∧
      t.x = s.x ∧ t.eqFlag = s.eqFlag ∧ t.cfg = s.cfg ∧ t.err = .ok ∧ t.inbox = s.inbox ∧
      t.drawn = s.drawn + (4 * s.cfg.s.toNat + 4) ∧
      t.log = s.log ++ drawEvents s.drawn (4 * s.cfg.s.toNat + 4) ++ [.response .ok]

/-- R41: the engine after a successful SETUP is a function of the SETUP command, the configuration CSRs
and the draws alone: nothing of a previous instance is left. -/
def Obligations.SetupForgetsThePreviousInstance : Prop :=
  ∀ (i : Instr) (s₁ s₂ t₁ t₂ : State), i.isSetup = true → s₁.cfg = s₂.cfg → s₁.drawn = s₂.drawn →
    exec i s₁ = .next t₁ → exec i s₂ = .next t₂ → t₁.err = .ok → t₂.err = .ok ∧ SameEngine t₁ t₂

/-! ### Duplex -/

/-- R132: in mode DUP, DUP.RESET completes: the key selected by `delta mod u` ORed with an IV of the
sample's bits W−1..k, rotated left by `α mod W`, is permuted once into ST; four draws; nothing else
changes and no register is written. -/
def Obligations.DupResetReseedsFromKeyAndIv : Prop :=
  ∀ (s : State) (ra : Reg), s.mode = .dup →
    ∃ t v, exec (.dupReset ra) s = .next t ∧
      (∀ m < Config.W, v.getLsbD ((m + s.par.alpha.toNat % Config.W) % Config.W) =
        (s.keyAt ((s.getX ra).toNat % s.par.u.toNat) |||
          (sampleW Config.draw s.drawn &&& ~~~s.kmask)).getLsbD m) ∧
      t = { s with
        st := Config.P v, err := .ok, drawn := s.drawn + 4
        log := s.log ++ drawEvents s.drawn 4 ++ [.permCall v (Config.P v), .response .ok] }

/-- R133: in mode DUP, DUP.DUPLEX completes: it outputs the rate bits as they stood before the call,
clears them if f is set, XORs the whole input in, unmasked, and permutes once. -/
def Obligations.DuplexOutputsThenAbsorbs : Prop :=
  ∀ (s : State) (rd ra : Reg) (f : Bool), s.mode = .dup →
    ∃ t v, exec (.dupDuplex rd ra f) s = .next t ∧
      (∀ m, v.getLsbD m = ((s.st.getLsbD m && !(f && s.rmask.getLsbD m)) ^^ (s.getX ra).getLsbD m)) ∧
      t.getX rd = s.st &&& s.rmask ∧ (∀ r, r ≠ rd → t.getX r = s.getX r) ∧
      t = { s with
        x := t.x, st := Config.P v, err := .ok
        log := s.log ++ [.permCall v (Config.P v), .response .ok] }

/-! ### The stream ciphers -/

/-- R141, R151: in its mode and whatever the PHASE, REKEY of a nonzero register completes: the key is
stored as given, the session is discarded (both branches in mode DSS), PHASE is KEYED; nothing else
changes. -/
def Obligations.RekeyStoresKeyAndDropsSession : Prop :=
  ∀ (s : State) (ra : Reg), s.getX ra ≠ 0 →
    (s.mode = .ask → ∃ t, exec (.askRekey ra) s = .next t ∧
      t = { s with
        key := s.getX ra, st := 0, phase := .keyed, err := .ok, log := s.log ++ [.response .ok] }) ∧
    (s.mode = .dss → ∃ t, exec (.dssRekey ra) s = .next t ∧
      t = { s with
        key := s.getX ra, st := 0, dn := 0, phase := .keyed, err := .ok,
        log := s.log ++ [.response .ok] })

/-- R142, R152: with a key present, so in KEYED and in INITIALIZED, INIT of a nonzero register completes:
the value v of CipherInit goes to ST in mode ASK, and in mode DSS to both branches with bit W−1 forced
to 0 in "up" and to 1 in "down"; PHASE is INITIALIZED; nothing else changes. -/
def Obligations.InitStartsTheSession : Prop :=
  ∀ (s : State) (ra : Reg), s.phase ≠ .uninit → s.getX ra ≠ 0 →
    ∀ v calls, (v, calls) = cipherInit Config.P Config.nonceInject s.par.k.toNat s.kmask s.key (s.getX ra) →
    (s.mode = .ask → ∃ t, exec (.askInit ra) s = .next t ∧
      t = { s with
        st := v, phase := .initialized, err := .ok
        log := s.log ++ calls.map (fun c => .permCall c.1 c.2) ++ [.response .ok] }) ∧
    (s.mode = .dss → ∃ t, exec (.dssInit ra) s = .next t ∧
      (∀ b < Config.W - 1, t.st.getLsbD b = v.getLsbD b ∧ t.dn.getLsbD b = v.getLsbD b) ∧
      t.st.getLsbD (Config.W - 1) = false ∧ t.dn.getLsbD (Config.W - 1) = true ∧
      t = { s with
        st := t.st, dn := t.dn, phase := .initialized, err := .ok
        log := s.log ++ calls.map (fun c => .permCall c.1 c.2) ++ [.response .ok] })

/-- R143: CipherInit for every limb width, permutation and injection point: exactly k + 1 calls, each
answered by P; the first presents the key's low k bits in the top k bits; call i + 2 presents the answer
before it with nonce bit i XORed into state bit 0 or state bit i; the low k bits of the result are the
nonce's and the others are the last answer's, so with k = W it is the nonce whatever the key (93 U8). -/
def Obligations.CipherInitAbsorbsKeyThenNonceBits : Prop :=
  ∀ (n : Nat) (P : Mws n → Mws n) (inject : NonceInject) (k : Nat) (key nonce v : Mws n)
    (calls : List (Mws n × Mws n)), 0 < k → k ≤ 4 * n →
    (v, calls) = cipherInit P inject k (mask (4 * n) k) key nonce →
    calls.length = k + 1 ∧ (∀ c ∈ calls, c.2 = P c.1) ∧
    (∀ c, calls[0]? = some c → c.1.toNat = key.toNat % 2 ^ k * 2 ^ (4 * n - k)) ∧
    (∀ i < k, ∀ c d, calls[i]? = some c → calls[i + 1]? = some d → ∀ b < 4 * n,
      d.1.getLsbD b = (c.2.getLsbD b ^^
        (nonce.getLsbD i && decide (b = match inject with | .bit0 => 0 | .bitI => i)))) ∧
    (∀ b < k, v.getLsbD b = nonce.getLsbD b) ∧
    (∀ c, calls[k]? = some c → ∀ b, k ≤ b → v.getLsbD b = c.2.getLsbD b) ∧
    (k = 4 * n → v = nonce)

/-- R144: in mode ASK and PHASE INITIALIZED, ASK.NEXT completes: ST is permuted once and `rd` gets the
rate bits after the permutation; nothing else changes. -/
def Obligations.AskNextSqueezesAfterPermuting : Prop :=
  ∀ (s : State) (rd : Reg), s.mode = .ask → s.phase = .initialized →
    ∃ t, exec (.askNext rd) s = .next t ∧
      t.getX rd = Config.P s.st &&& s.rmask ∧ (∀ r, r ≠ rd → t.getX r = s.getX r) ∧
      t = { s with
        x := t.x, st := Config.P s.st, err := .ok
        log := s.log ++ [.permCall s.st (Config.P s.st), .response .ok] }

/-- R153, R154: in mode DSS and PHASE INITIALIZED, DSS.NEXT completes: both branches are permuted from
their old values, "up" first; `rd` gets the rate of "down"; below bit W−1 both new branches hold the
rate of "up" and the XOR of the two capacities; bit W−1 is 0 in "up" and 1 in "down". -/
def Obligations.DssNextMixesTheBranches : Prop :=
  ∀ (s : State) (rd : Reg), s.mode = .dss → s.phase = .initialized →
    ∃ t, exec (.dssNext rd) s = .next t ∧
      t.getX rd = Config.P s.dn &&& s.rmask ∧ (∀ r, r ≠ rd → t.getX r = s.getX r) ∧
      (∀ b < Config.W - 1,
        t.st.getLsbD b = (if s.rmask.getLsbD b then (Config.P s.st).getLsbD b
          else ((Config.P s.st).getLsbD b ^^ (Config.P s.dn).getLsbD b)) ∧
        t.dn.getLsbD b = t.st.getLsbD b) ∧
      t.st.getLsbD (Config.W - 1) = false ∧ t.dn.getLsbD (Config.W - 1) = true ∧
      t = { s with
        x := t.x, st := t.st, dn := t.dn, err := .ok
        log := s.log ++ [.permCall s.st (Config.P s.st), .permCall s.dn (Config.P s.dn),
          .response .ok] }

/-- R147, R156: in the cipher's mode, a successful SETUP leads to UNINIT, a successful REKEY from any PHASE
to KEYED, a successful INIT from KEYED or INITIALIZED to INITIALIZED; NEXT succeeds only in INITIALIZED, and
it and every other command leave PHASE as it is; a failing command leaves every engine register as it
is. -/
def Obligations.CipherPhaseTransitions : Prop :=
  ∀ (c : Cipher) (i : Instr) (s t : State), s.mode = c.mode → exec i s = .next t →
    (t.err ≠ .ok → SameEngine s t) ∧
    (t.err = .ok →
      (i.isSetup = true → t.phase = .uninit) ∧
      (∀ r, i = c.rekey r → t.phase = .keyed) ∧
      (∀ r, i = c.init r → s.phase ≠ .uninit ∧ t.phase = .initialized) ∧
      (∀ r, i = c.next r → s.phase = .initialized ∧ t.phase = .initialized) ∧
      (i.isSetup = false → (∀ r, i ≠ c.rekey r ∧ i ≠ c.init r) → t.phase = s.phase))

/-- R179 with CT §8 (vector X5): in the cipher's mode, NEXT directly after REKEY with any valid key
answers `NotInitialized` and changes nothing else. -/
def Obligations.NextAfterRekeyIsNotInitialized : Prop :=
  ∀ (c : Cipher) (s : State) (ra rd : Reg), s.mode = c.mode → s.getX ra ≠ 0 →
    ∃ t, exec (c.rekey ra) s = .next t ∧ t.err = .ok ∧
      ∃ t', exec (c.next rd) t = .next t' ∧ OnlyResponded .notInitialized t t'

/-- R146, R155, CT §8 (vector X4): ENCRYPT of its own output gives the data back, for both ciphers, every
nonzero key and nonce and data of every length, when the scratch register is neither the key's nor the
nonce's. -/
def Obligations.EncryptIsAnInvolution : Prop :=
  ∀ (c : Cipher) (xk xn xt : Reg) (data : List Byte) (s : State),
    s.mode = c.mode → xt ≠ xk → xt ≠ xn → s.getX xk ≠ 0 → s.getX xn ≠ 0 →
    (encrypt c xk xn xt data s).2.err = .ok ∧
    (encrypt c xk xn xt data s).1.length = data.length ∧
    (encrypt c xk xn xt (encrypt c xk xn xt data s).1 (encrypt c xk xn xt data s).2).2.err = .ok ∧
    (encrypt c xk xn xt (encrypt c xk xn xt data s).1 (encrypt c xk xn xt data s).2).1 = data

/-! ### The PRNG -/

/-- R161: in mode PRG with a set-up seed count, PRG.REFRESH completes: only rate bits of ST change, by
the XOR of the input and SEEDS[J], then ST is permuted once, and J becomes `(J + 1) mod s`; no register
is written. -/
def Obligations.RefreshAbsorbsWithTheNextSeed : Prop :=
  ∀ (s : State) (ra : Reg), s.mode = .prg → 0 < s.par.s.toNat →
    ∃ t v, exec (.prgRefresh ra) s = .next t ∧
      (∀ b, v.getLsbD b = (s.st.getLsbD b ^^
        (s.rmask.getLsbD b && ((s.getX ra).getLsbD b ^^ (s.seedAt s.j.toNat).getLsbD b)))) ∧
      t.j.toNat = (s.j.toNat + 1) % s.par.s.toNat ∧
      t = { s with
        st := Config.P v, j := t.j, err := .ok
        log := s.log ++ [.permCall v (Config.P v), .response .ok] }

/-- R163: in mode PRG with a set-up round count, PRG.NEXT completes with exactly t permutation calls: the
first presents ST and its rate bits are the result; each later one presents the answer before it with
the rate bits cleared; ST is the last answer and J is 1; nothing else changes. -/
def Obligations.PrgNextSqueezesThenTruncates : Prop :=
  ∀ (s : State) (rd : Reg), s.mode = .prg → 0 < s.par.t.toNat →
    ∃ (t : State) (calls : List (Word × Word)), exec (.prgNext rd) s = .next t ∧
      calls.length = s.par.t.toNat ∧ (∀ c ∈ calls, c.2 = Config.P c.1) ∧
      (∀ c, calls[0]? = some c → c.1 = s.st ∧ t.getX rd = c.2 &&& s.rmask) ∧
      (∀ i c d, calls[i]? = some c → calls[i + 1]? = some d → d.1 = c.2 &&& ~~~s.rmask) ∧
      calls.getLast?.map Prod.snd = some t.st ∧ t.j = 1 ∧
      (∀ r, r ≠ rd → t.getX r = s.getX r) ∧
      t = { s with
        x := t.x, st := t.st, j := 1, err := .ok
        log := s.log ++ calls.map (fun c => .permCall c.1 c.2) ++ [.response .ok] }

/-- R163, corner case t ≥ 2: the state PRG.NEXT leaves does not depend on the rate bits it revealed: two
states whose first permutation agrees outside the rate end with the same ST. -/
def Obligations.PrgNextForgetsTheRevealedRate : Prop :=
  ∀ (s₁ s₂ t₁ t₂ : State) (rd : Reg), s₁.mode = .prg → s₂.mode = .prg → s₁.par = s₂.par →
    s₁.rmask = s₂.rmask → 2 ≤ s₁.par.t.toNat →
    Config.P s₁.st &&& ~~~s₁.rmask = Config.P s₂.st &&& ~~~s₂.rmask →
    exec (.prgNext rd) s₁ = .next t₁ → exec (.prgNext rd) s₂ = .next t₂ → t₁.st = t₂.st

/-- R164: two PRNG instances with equal engines and equal registers, given the same sequence of
PRG.REFRESH and PRG.NEXT commands, end with equal registers and equal engines, however many draws their
randomness sources have made and whatever else differs. -/
def Obligations.PrgOutputsAreDetermined : Prop :=
  ∀ (cmds : List Instr), (∀ i ∈ cmds, (∃ r, i = .prgRefresh r) ∨ ∃ r, i = .prgNext r) →
    ∀ s₁ s₂ : State, s₁.mode = .prg → SameEngine s₁ s₂ → s₁.x = s₂.x →
      (issueAll cmds s₁).x = (issueAll cmds s₂).x ∧
      SameEngine (issueAll cmds s₁) (issueAll cmds s₂)

/-! ### Errors -/

/-- R172: a command that ends in an error makes no write but ERR, no permutation call and no draw, and its
code is the one event it makes; the same of a word on the command port, whether it decodes or not. -/
def Obligations.FailingCommandChangesOnlyErr : Prop :=
  (∀ (i : Instr) (s t : State), exec i s = .next t → t.err ≠ .ok → OnlyResponded t.err s t) ∧
  (∀ (s t : State) (w : CommandWord) (rest : List HostRequest), s.inbox = .command w :: rest →
    step s = .next t → t.err ≠ .ok → OnlyResponded t.err { s with inbox := rest } t)

/-- R175, R104: `OperandRange` is raised by SHL, SHR, ROTL and ROTR exactly when the amount is W or more,
and by no other command; the failing command writes nothing. -/
def Obligations.OperandRangeExactly : Prop :=
  ∀ (i : Instr) (s : State), ∃ t, exec i s = .next t ∧
    (t.err = .operandRange → OnlyResponded .operandRange s t) ∧
    (t.err = .operandRange ↔ ∃ rd ra imm16, Config.W ≤ imm16.toNat ∧
      (i = .shl rd ra imm16 ∨ i = .shr rd ra imm16 ∨ i = .rotl rd ra imm16 ∨ i = .rotr rd ra imm16))

/-- R176: `ParamInvalid` is raised by the SETUP commands exactly under the conditions of the table, and
by no other command; a failed SETUP leaves the previous instance as it was. -/
def Obligations.ParamInvalidExactly : Prop :=
  ∀ (i : Instr) (s : State), ∃ t, exec i s = .next t ∧
    (t.err = .paramInvalid → OnlyResponded .paramInvalid s t) ∧
    (t.err = .paramInvalid ↔
      (i = .setupDup ∧ (s.cfg.r.toNat = 0 ∨ Config.W < s.cfg.r.toNat ∨ s.cfg.k.toNat = 0 ∨
        Config.W < s.cfg.k.toNat ∨ s.cfg.u.toNat = 0 ∨ Config.UMAX < s.cfg.u.toNat)) ∨
      ((i = .setupAsk ∨ i = .setupDss) ∧ (s.cfg.r.toNat = 0 ∨ Config.W < s.cfg.r.toNat ∨
        s.cfg.k.toNat = 0 ∨ Config.W < s.cfg.k.toNat)) ∨
      (i = .setupPrg ∧ (s.cfg.r.toNat = 0 ∨ Config.W < s.cfg.r.toNat ∨ s.cfg.t.toNat = 0 ∨
        s.cfg.s.toNat ≤ 1 ∨ Config.SMAX < s.cfg.s.toNat)))

/-- R177: `NotSetup` is raised exactly by a session command whose construction is not the one the engine
holds; the failing command changes nothing else. -/
def Obligations.NotSetupExactly : Prop :=
  ∀ (i : Instr) (s : State), ∃ t, exec i s = .next t ∧
    (t.err = .notSetup → OnlyResponded .notSetup s t) ∧
    (t.err = .notSetup ↔
      (∃ r, s.mode ≠ .dup ∧ (i = .dupReset r ∨ ∃ r' f, i = .dupDuplex r r' f)) ∨
      (∃ r, s.mode ≠ .ask ∧ (i = .askRekey r ∨ i = .askInit r ∨ i = .askNext r)) ∨
      (∃ r, s.mode ≠ .dss ∧ (i = .dssRekey r ∨ i = .dssInit r ∨ i = .dssNext r)) ∨
      (∃ r, s.mode ≠ .prg ∧ (i = .prgRefresh r ∨ i = .prgNext r)))

/-- R178, R179: `NotKeyed` is raised exactly by INIT in the right MODE with PHASE = UNINIT, and
`NotInitialized` exactly by NEXT in the right MODE with PHASE ≠ INITIALIZED. -/
def Obligations.SequencingErrorsExactly : Prop :=
  ∀ (i : Instr) (s : State), ∃ t, exec i s = .next t ∧
    (t.err = .notKeyed ↔
      ∃ (c : Cipher) (r : Reg), i = c.init r ∧ s.mode = c.mode ∧ s.phase = .uninit) ∧
    (t.err = .notInitialized ↔
      ∃ (c : Cipher) (r : Reg), i = c.next r ∧ s.mode = c.mode ∧ s.phase ≠ .initialized)

/-- R180, R183: `InvalidDomainValue` is raised exactly by REKEY and INIT of a register that is zero in all
its W bits, and only after the MODE and PHASE checks have passed. -/
def Obligations.InvalidDomainValueExactly : Prop :=
  ∀ (i : Instr) (s : State), ∃ t, exec i s = .next t ∧
    (t.err = .invalidDomainValue ↔
      ∃ (c : Cipher) (r : Reg), s.mode = c.mode ∧ s.getX r = 0 ∧
        (i = c.rekey r ∨ (i = c.init r ∧ s.phase ≠ .uninit)))

/-- R174, R76: a word on the command port ends with `IllegalCommand` exactly when no row of R74 covers it,
or it is a CSRW of a CSR number above 5, or a CSRR of CSR 6, 7 or 12 to 15; then nothing else changes. -/
def Obligations.IllegalCommandExactly : Prop :=
  ∀ (s : State) (w : CommandWord) (rest : List HostRequest), s.inbox = .command w :: rest →
    ∃ t, step s = .next t ∧
      (t.err = .illegalCommand → OnlyResponded .illegalCommand { s with inbox := rest } t) ∧
      (t.err = .illegalCommand ↔
        (∀ row ∈ opcodeTable, w &&& row.mask ≠ row.pattern) ∨
        (∃ n v, encode (.csrw n v) = w ∧ 5 < n.val) ∨
        (∃ rd n, encode (.csrr rd n) = w ∧ (n.val = 6 ∨ n.val = 7 ∨ 12 ≤ n.val)))

/-! ### Whole-machine rules -/

/-- R15, R171: every command on every state ends with exactly one response, the last of its port events,
and ERR holds that response. -/
def Obligations.EveryCommandEndsWithOneResponse : Prop :=
  ∀ (i : Instr) (s : State), ∃ t events, exec i s = .next t ∧
    t.log = s.log ++ events ++ [.response t.err] ∧ t.inbox = s.inbox ∧
    ∀ e ∈ events, e.isDraw = true ∨ e.isCall = true

/-- R125: a command that succeeds makes exactly the draws R125 lists, and one that ends in an error makes
none; the port record shows as many draws. -/
def Obligations.DrawsAreExactlyThoseListed : Prop :=
  ∀ (i : Instr) (s t : State), exec i s = .next t →
    t.drawn = s.drawn + (if t.err = .ok then i.draws s else 0) ∧
    (t.log.filter PortEvent.isDraw).length =
      (s.log.filter PortEvent.isDraw).length + (if t.err = .ok then i.draws s else 0)

/-- R121, R63 and each command's rule: the permutation calls of a command are as many as its rule says
(none if it fails) and each is answered with `P` of what it presents, in states that meet the engine's
invariants. -/
def Obligations.PermutationCallsAreExactlyThoseListed : Prop :=
  ∀ (i : Instr) (s t : State), s.Inv → exec i s = .next t →
    ∃ events, t.log = s.log ++ events ∧ (∀ e ∈ events, e.Answered) ∧
      (events.filter PortEvent.isCall).length = if t.err = .ok then i.permCalls s else 0

/-- R14, R38: what a command does to the core, and its port events, depend on neither the host's queue nor
the record of earlier events. -/
def Obligations.CommandIgnoresQueueAndRecord : Prop :=
  ∀ (i : Instr) (s : State) (q : List HostRequest) (l : List PortEvent), ∃ t,
    exec i { s with inbox := [], log := [] } = .next t ∧
    exec i { s with inbox := q, log := l } = .next { t with inbox := q, log := l ++ t.log }

/-- R30: MODE is written only by a successful SETUP command and by reset: any other step leaves it. -/
def Obligations.OnlySetupAndResetWriteMode : Prop :=
  ∀ s t : State, step s = .next t → t.mode ≠ s.mode →
    (∃ rest, s.inbox = .reset :: rest ∧ t.mode = .none) ∨
    (∃ w rest i, s.inbox = .command w :: rest ∧ decode w = .ok i ∧ i.isSetup = true ∧ t.err = .ok)

/-- R37: no command but the four that output to `x[rd]` lets the host see anything of the engine but MODE
and PHASE: from states the host cannot tell apart (and with the same draws to come) it cannot tell the
results apart, and after an output command only `x[rd]` can differ. -/
def Obligations.EngineIsInvisibleButForOutputs : Prop :=
  ∀ (i : Instr) (s₁ s₂ t₁ t₂ : State), SameVisible s₁ s₂ → s₁.drawn = s₂.drawn →
    exec i s₁ = .next t₁ → exec i s₂ = .next t₂ →
    (i.outputReg = none → SameVisible t₁ t₂) ∧
    (∀ rd, i.outputReg = some rd → SameVisibleBut rd t₁ t₂)

/-- R37: what an output command writes to `x[rd]` is masked to the rate, so no capacity bit leaves the
engine. -/
def Obligations.OutputsCarryNoCapacityBit : Prop :=
  ∀ (i : Instr) (s t : State) (rd : Reg), s.Inv → exec i s = .next t → i.outputReg = some rd →
    t.err = .ok → ∀ b, s.par.r.toNat ≤ b → (t.getX rd).getLsbD b = false

/-! ### The data window, reset, the step -/

/-- R54, R53: a data read at address 4i + j answers `x[i].l[j]` and changes no state of the core. -/
def Obligations.DataReadAnswersTheLimb : Prop :=
  ∀ (s : State) (rest : List HostRequest) (addr : BitVec 6) (r : Reg) (l : Fin 4),
    addr.toNat = 4 * r.val + l.val → s.inbox = .read addr :: rest →
    step s = .next { s with
      inbox := rest, log := s.log ++ [.readData (limb (s.getX r) l)] }

/-- R55, R53, R60: a data write at address 4i + j replaces limb j of x[i]; every other limb of every
register and all other state, ERR and EQ among it, are unchanged, so a later read at that address answers
the value written and a read anywhere else answers what it would have before. -/
def Obligations.DataWriteReplacesOneLimb : Prop :=
  ∀ (s : State) (rest : List HostRequest) (addr : BitVec 6) (v : Limb Config.N),
    s.inbox = .write addr v :: rest →
    ∃ t, step s = .next t ∧
      (∀ (r : Reg) (l : Fin 4), limb (t.getX r) l =
        if addr.toNat = 4 * r.val + l.val then v else limb (s.getX r) l) ∧
      (∀ a, t.memRead a = if a = addr then v else s.memRead a) ∧
      t = { s with inbox := rest, x := t.x }

/-- R51: the byte image of a W-bit value is W/8 bytes and byte j is `v[8j+7 : 8j]`; that of one limb is N/8
bytes by the same rule; and the image of a value is the bytes of limb 0, then those of limbs 1, 2 and 3. -/
def Obligations.ByteImageIsLimbByLimb : Prop :=
  ∀ (n : Nat) (v : Mws n), n % 8 = 0 →
    (leBytes v).length = 4 * n / 8 ∧
    (∀ j b, j < 4 * n / 8 → b < 8 → ((leBytes v)[j]?.getD 0).getLsbD b = v.getLsbD (8 * j + b)) ∧
    (∀ l : Limb n, (leBytes l).length = n / 8 ∧
      ∀ j b, j < n / 8 → b < 8 → ((leBytes l)[j]?.getD 0).getLsbD b = l.getLsbD (8 * j + b)) ∧
    leBytes v = leBytes (limb v 0) ++ leBytes (limb v 1) ++ leBytes (limb v 2) ++ leBytes (limb v 3)

/-- R52: RateBytes has ceil(r/8) bytes; bit i of the rate is bit `i mod 8` of byte `floor(i/8)`, and the
bits of the last byte above the rate are zero. -/
def Obligations.RateBytesPackTheRate : Prop :=
  ∀ (w : Nat) (v : BitVec w) (r : Nat), w % 8 = 0 → 0 < r → r ≤ w →
    (rateBytes v r).length = (r + 7) / 8 ∧
    ∀ i < 8 * ((r + 7) / 8), ((rateBytes v r)[i / 8]?.getD 0).getLsbD (i % 8) =
      (decide (i < r) && v.getLsbD i)

/-- R190, R40: after the reset input every piece of the core's state has its reset value, which is zero,
MODE NONE and PHASE UNINIT, whatever it was before; the model's own queue, draw counter and record are
outside the core and stay (the model's choice, assumption log 4, 3 and 5). -/
def Obligations.ResetInputGivesResetState : Prop :=
  ∀ (s : State) (rest : List HostRequest), s.inbox = .reset :: rest →
    ∃ t, step s = .next t ∧ (∀ r, t.getX r = 0) ∧ t.eqFlag = false ∧ t.err = .ok ∧
      t.cfg = ⟨0, 0, 0, 0, 0, 0⟩ ∧ t.mode = .none ∧ t.phase = .uninit ∧ t.par = ⟨0, 0, 0, 0, 0, 0⟩ ∧
      t.rmask = 0 ∧ t.kmask = 0 ∧ t.st = 0 ∧ t.dn = 0 ∧ t.key = 0 ∧
      (∀ i < Config.UMAX, t.keys[i]? = some 0) ∧ (∀ i < Config.SMAX, t.seeds[i]? = some 0) ∧
      t.j = 0 ∧ t.inbox = rest ∧ t.drawn = s.drawn ∧ t.log = s.log

/-- R77, R22: a word on the command port that decodes to a command runs exactly that command, with the
request taken off the queue, and one that does not decode raises `IllegalCommand`; with nothing to do a
step changes nothing (R201). -/
def Obligations.StepRunsTheDecodedCommand : Prop :=
  ∀ s : State,
    (∀ w rest i, s.inbox = .command w :: rest → decode w = .ok i →
      step s = exec i { s with inbox := rest }) ∧
    (∀ w rest e, s.inbox = .command w :: rest → decode w = .error e →
      step s = .next ({ s with inbox := rest }.raise .illegalCommand)) ∧
    (s.inbox = [] → step s = .next s)

/-! ### Encoding -/

/-- R70 to R75: decoding the encoding of a command gives the command back, for every command and every
operand its fields can hold. -/
def Obligations.DecodeEncodeRoundTrip : Prop :=
  ∀ i : Instr, decode (encode i) = .ok i

/-- R74 to R77: for every 32-bit word, the decoder finds a command exactly when a row of R74 covers the
word (`w AND mask = match`), and then the word is that command's only encoding and the row is its own;
the rows are 29 and no word is covered by two of them. -/
def Obligations.DecoderFollowsTheOpcodeTable : Prop :=
  (∀ w : CommandWord,
    ((∃ i, decode w = .ok i) ↔ wordWellFormed w = true) ∧
    (∀ i, decode w = .ok i → encode i = w ∧ i.row.covers w = true)) ∧
  opcodeTable.length = 29 ∧
  opcodeTable.Pairwise fun a b => ∀ w, ¬(a.covers w = true ∧ b.covers w = true)

/-- R78 and 95 §3.9: the spec's own encodings, one of each family, decode to the commands they stand for. -/
def Obligations.SpecEncodingsDecode : Prop :=
  decode 0x20312000 = .ok (.add 3 1 2) ∧ decode 0x18110008 = .ok (.shl 1 1 8) ∧
  decode 0x3000000C = .ok (.csrw 0 12) ∧ decode 0x42210001 = .ok (.dupDuplex 2 1 true) ∧
  decode 0x14034000 = .ok (.cmpeq 3 4) ∧ decode 0x53300000 = .ok (.askNext 3) ∧
  decode 0x62020000 = .ok (.dssInit 2) ∧ decode 0x71010000 = .ok (.prgRefresh 1)

/-! ### Invariants -/

/-- R32, R36, R40: the reset state meets the engine's invariants. -/
def Obligations.ResetMeetsTheInvariant : Prop :=
  State.reset.Inv

/-- R30 to R36, R156: every step from every state that meets the engine's invariants (masks and latched
parameters in range, masked keys and seeds, J below s, PHASE only in the cipher modes, a nonzero key
while one is present, the two DSS branches equal but for the domain bit) gives a state that meets them. -/
def Obligations.StepKeepsTheInvariant : Prop :=
  ∀ s t : State, s.Inv → step s = .next t → t.Inv

/-! ### The host's REFRESHN -/

/-- R162: the assembler refuses PRG.REFRESHN of an empty list, whatever the state. Of a list that is not
empty it issues one PRG.REFRESH per register, in list order: outside mode PRG the first ends with `NotSetup`
and nothing more is issued; in mode PRG, with J below s (R36), there is one permutation call and one
response 0 per register, call i presents the state before it with the XOR of register i of the list and
SEEDS[(J + i) mod s] in the rate, J advances by the length of the list modulo s, and nothing else
changes. -/
def Obligations.RefreshNAbsorbsInListOrder : Prop :=
  (∀ s : State, refreshAll [] s = .error .emptyList) ∧
  ∀ (inputs : List Reg) (s : State), inputs ≠ [] → ∃ t, refreshAll inputs s = .ok t ∧
    (s.mode ≠ .prg → OnlyResponded .notSetup s t) ∧
    (s.mode = .prg → s.j.toNat < s.par.s.toNat → ∃ calls : List (Word × Word),
      calls.length = inputs.length ∧ (∀ c ∈ calls, c.2 = Config.P c.1) ∧
      (∀ i r c p, inputs[i]? = some r → calls[i]? = some c →
        (s.st :: calls.map Prod.snd)[i]? = some p →
        ∀ b, c.1.getLsbD b = (p.getLsbD b ^^ (s.rmask.getLsbD b && ((s.getX r).getLsbD b ^^
          (s.seedAt ((s.j.toNat + i) % s.par.s.toNat)).getLsbD b)))) ∧
      calls.getLast?.map Prod.snd = some t.st ∧
      t.j.toNat = (s.j.toNat + inputs.length) % s.par.s.toNat ∧
      t = { s with
        st := t.st, j := t.j, err := .ok
        log := s.log ++ calls.flatMap fun c => [.permCall c.1 c.2, .response .ok] })
end

