-- ==== Sys2Proof/Laws/Limbs.lean ====
section
/-! SUPPORT. The laws of the limb view (R9): a value is its four limbs, a limb of a value built from limbs
is that limb, and the bounds that R6 gives the parameters. -/

namespace Sys2Proof.Machine

variable {n : Nat}

/-- Bit `b` of limb `i` is bit `n·i + b` of the value. -/
@[simp] theorem getLsbD_limb (v : Mws n) (i : Fin 4) (b : Nat) :
    (limb v i).getLsbD b = (decide (b < n) && v.getLsbD (n * i.val + b)) := by
  simp [limb]

/-- A limb as a number. -/
theorem toNat_limb (v : Mws n) (i : Fin 4) :
    (limb v i).toNat = v.toNat / 2 ^ (n * i.val) % 2 ^ n := by
  simp [limb, BitVec.extractLsb'_toNat, Nat.shiftRight_eq_div_pow]

/-- The sum of R9 stays below `2^(4n)`: nothing is lost when limbs are put together. -/
theorem toNat_ofLimbs (l0 l1 l2 l3 : Limb n) :
    (ofLimbs l0 l1 l2 l3).toNat =
      l0.toNat + l1.toNat * 2 ^ n + l2.toNat * 2 ^ (2 * n) + l3.toNat * 2 ^ (3 * n) := by
  have e2 : 2 ^ (2 * n) = 2 ^ n * 2 ^ n := by rw [← pow_add]; congr 1; omega
  have e3 : 2 ^ (3 * n) = 2 ^ n * 2 ^ n * 2 ^ n := by rw [← pow_add, ← pow_add]; congr 1; omega
  have e4 : 2 ^ (4 * n) = 2 ^ n * 2 ^ n * 2 ^ n * 2 ^ n := by
    rw [← pow_add, ← pow_add, ← pow_add]; congr 1; omega
  rw [ofLimbs, BitVec.toNat_ofNat, Nat.mod_eq_of_lt]
  have h0 := l0.isLt
  have h1 := l1.isLt
  have h2 := l2.isLt
  have h3 := l3.isLt
  rw [e2, e3, e4]
  set p := 2 ^ n
  have a1 : (l1.toNat + 1) * p ≤ p * p := Nat.mul_le_mul_right _ h1
  have a2 : (l2.toNat + 1) * (p * p) ≤ p * (p * p) := Nat.mul_le_mul_right _ h2
  have a3 : (l3.toNat + 1) * (p * p * p) ≤ p * (p * p * p) := Nat.mul_le_mul_right _ h3
  have c2 : p * (p * p) = p * p * p := by ring
  have c3 : p * (p * p * p) = p * p * p * p := by ring
  rw [Nat.add_mul, Nat.one_mul] at a1 a2 a3
  omega

/-- Limb `i` of a value put together from limbs is the limb put in place `i`. -/
theorem limb_ofLimbs (l0 l1 l2 l3 : Limb n) (i : Fin 4) :
    limb (ofLimbs l0 l1 l2 l3) i = match i with | 0 => l0 | 1 => l1 | 2 => l2 | 3 => l3 := by
  have e2 : 2 ^ (2 * n) = 2 ^ n * 2 ^ n := by rw [← pow_add]; congr 1; omega
  have e3 : 2 ^ (3 * n) = 2 ^ n * 2 ^ n * 2 ^ n := by rw [← pow_add, ← pow_add]; congr 1; omega
  have h0 := l0.isLt
  have h1 := l1.isLt
  have h2 := l2.isLt
  have h3 := l3.isLt
  have hp : 0 < 2 ^ n := Nat.two_pow_pos n
  apply BitVec.eq_of_toNat_eq
  rw [toNat_limb, toNat_ofLimbs, e2, e3]
  match i with
  | 0 =>
    have : l0.toNat + l1.toNat * 2 ^ n + l2.toNat * (2 ^ n * 2 ^ n) +
        l3.toNat * (2 ^ n * 2 ^ n * 2 ^ n) =
        l0.toNat + 2 ^ n * (l1.toNat + 2 ^ n * (l2.toNat + 2 ^ n * l3.toNat)) := by ring
    simp only [Fin.val_zero, Nat.mul_zero, pow_zero, Nat.div_one]
    rw [this, Nat.add_mul_mod_self_left, Nat.mod_eq_of_lt h0]
  | 1 =>
    have : l0.toNat + l1.toNat * 2 ^ n + l2.toNat * (2 ^ n * 2 ^ n) +
        l3.toNat * (2 ^ n * 2 ^ n * 2 ^ n) =
        l0.toNat + 2 ^ n * (l1.toNat + 2 ^ n * (l2.toNat + 2 ^ n * l3.toNat)) := by ring
    simp only [Fin.val_one, Nat.mul_one]
    rw [this, Nat.add_mul_div_left _ _ hp, Nat.div_eq_of_lt h0, Nat.zero_add,
      Nat.add_mul_mod_self_left, Nat.mod_eq_of_lt h1]
  | 2 =>
    have : l0.toNat + l1.toNat * 2 ^ n + l2.toNat * (2 ^ n * 2 ^ n) +
        l3.toNat * (2 ^ n * 2 ^ n * 2 ^ n) =
        l0.toNat + 2 ^ n * (l1.toNat + 2 ^ n * (l2.toNat + 2 ^ n * l3.toNat)) := by ring
    have e : 2 ^ (n * ((2 : Fin 4) : Nat)) = 2 ^ n * 2 ^ n := by
      rw [← pow_add]; congr 1; simp; omega
    rw [e, this, ← Nat.div_div_eq_div_mul, Nat.add_mul_div_left _ _ hp, Nat.div_eq_of_lt h0,
      Nat.zero_add, Nat.add_mul_div_left _ _ hp, Nat.div_eq_of_lt h1, Nat.zero_add,
      Nat.add_mul_mod_self_left, Nat.mod_eq_of_lt h2]
  | 3 =>
    have : l0.toNat + l1.toNat * 2 ^ n + l2.toNat * (2 ^ n * 2 ^ n) +
        l3.toNat * (2 ^ n * 2 ^ n * 2 ^ n) =
        l0.toNat + 2 ^ n * (l1.toNat + 2 ^ n * (l2.toNat + 2 ^ n * l3.toNat)) := by ring
    have e : 2 ^ (n * ((3 : Fin 4) : Nat)) = 2 ^ n * 2 ^ n * 2 ^ n := by
      rw [← pow_add, ← pow_add]; congr 1; simp; omega
    rw [e, this, ← Nat.div_div_eq_div_mul, ← Nat.div_div_eq_div_mul, Nat.add_mul_div_left _ _ hp,
      Nat.div_eq_of_lt h0, Nat.zero_add, Nat.add_mul_div_left _ _ hp, Nat.div_eq_of_lt h1,
      Nat.zero_add, Nat.add_mul_div_left _ _ hp, Nat.div_eq_of_lt h2, Nat.zero_add,
      Nat.mod_eq_of_lt h3]

/-- Two values with the same four limbs are equal. -/
theorem eq_of_limbs {a b : Mws n} (h : ∀ i, limb a i = limb b i) : a = b := by
  apply BitVec.eq_of_getLsbD_eq
  intro m hm
  have hn : 0 < n := by omega
  have hi : m / n < 4 := Nat.div_lt_of_lt_mul (by omega)
  have hb : m % n < n := Nat.mod_lt _ hn
  have e := congrArg (fun l => l.getLsbD (m % n)) (h ⟨m / n, hi⟩)
  simp only [getLsbD_limb, hb, decide_true, Bool.true_and, Nat.div_add_mod] at e
  exact e

/-- A value is put together from its own limbs. -/
theorem ofLimbs_limb (v : Mws n) : ofLimbs (limb v 0) (limb v 1) (limb v 2) (limb v 3) = v := by
  apply eq_of_limbs
  intro i
  rw [limb_ofLimbs]
  match i with
  | 0 => rfl
  | 1 => rfl
  | 2 => rfl
  | 3 => rfl

/-- `ONE` is the number 1 where limbs are not empty. -/
theorem one_eq (hn : 0 < n) : one n = 1#(4 * n) := by
  apply BitVec.eq_of_toNat_eq
  have h1 : (1 : Nat) < 2 ^ n := Nat.one_lt_two_pow (by omega)
  have h4 : (1 : Nat) < 2 ^ (4 * n) := Nat.one_lt_two_pow (by omega)
  rw [one, toNat_ofLimbs]
  simp [Nat.mod_eq_of_lt h1, Nat.mod_eq_of_lt h4]

/-- The bits of `MASK(k)` (R10). -/
theorem getLsbD_mask (w k b : Nat) : (mask w k).getLsbD b = (decide (b < w) && decide (b < k)) := by
  simp [mask, BitVec.getLsbD_ofNat, Nat.testBit_two_pow_sub_one]

/-- The only bit of `DOMBIT` is bit w-1 (R10). -/
theorem getLsbD_domBit (w b : Nat) :
    (domBit w).getLsbD b = (decide (b < w) && decide (w - 1 = b)) := by
  rw [domBit, BitVec.getLsbD_ofNat, Nat.testBit_two_pow]

end Sys2Proof.Machine

namespace Sys2Proof

/-- N is a multiple of 8 (R6). -/
theorem Config.N_mod_eight : Config.N % 8 = 0 := by
  simp [Config.N]

/-- 8 ≤ N (R6). -/
theorem Config.eight_le_N : 8 ≤ Config.N := by
  unfold Config.N; omega

/-- N ≤ 16376 (R6). -/
theorem Config.N_le : Config.N ≤ 16376 := by
  have := Config.limbBytesLessOne.isLt
  unfold Config.N; omega

/-- W ≤ 65504, so W fits a 16-bit CSR (R6). -/
theorem Config.W_le : Config.W ≤ 65504 := by
  have := Config.N_le
  unfold Config.W; omega

/-- 32 ≤ W. -/
theorem Config.thirtyTwo_le_W : 32 ≤ Config.W := by
  have := Config.eight_le_N
  unfold Config.W; omega

/-- 1 ≤ UMAX ≤ 65535 (R6). -/
theorem Config.UMAX_bounds : 1 ≤ Config.UMAX ∧ Config.UMAX ≤ 65535 := by
  have := Config.keySlotsLessOne.isLt
  unfold Config.UMAX; omega

/-- 2 ≤ SMAX ≤ 65535 (R6). -/
theorem Config.SMAX_bounds : 2 ≤ Config.SMAX ∧ Config.SMAX ≤ 65535 := by
  have := Config.seedSlotsLessTwo.isLt
  unfold Config.SMAX; omega

end Sys2Proof
end

