-- ==== Sys2Proof/Laws/Arith.lean ====
section
/-! SUPPORT. What one limb-wise shift by one bit and one limb addition do, bit by bit and as numbers, for
every limb width. -/

namespace Sys2Proof.Machine

variable {n : Nat}

/-- Bit `m` of a value put together from limbs is bit `m mod n` of limb `m / n` (R9). -/
theorem getLsbD_ofLimbs (l : Fin 4 → Limb n) (i : Fin 4) {b : Nat} (hb : b < n) :
    (ofLimbs (l 0) (l 1) (l 2) (l 3)).getLsbD (n * i.val + b) = (l i).getLsbD b := by
  have h := getLsbD_limb (ofLimbs (l 0) (l 1) (l 2) (l 3)) i b
  rw [limb_ofLimbs] at h
  simp only [hb, decide_true, Bool.true_and] at h
  rw [← h]
  match i with
  | 0 => rfl
  | 1 => rfl
  | 2 => rfl
  | 3 => rfl

/-- Every bit index of a value is a bit of one of its limbs. -/
theorem exists_limb_bit {m : Nat} (hm : m < 4 * n) : ∃ (i : Fin 4) (b : Nat), b < n ∧ m = n * i.val + b :=
  ⟨⟨m / n, Nat.div_lt_of_lt_mul (by omega)⟩, m % n, Nat.mod_lt _ (by omega), (Nat.div_add_mod m n).symm⟩

/-- A limb shifted up by one with a bit entering at the bottom. -/
theorem getLsbD_shlLimb (a : Limb n) (c : Bool) {b : Nat} (hb : b < n) :
    ((a <<< 1) + bitLimb c).getLsbD b = if b = 0 then c else a.getLsbD (b - 1) := by
  have hn : 0 < n := by omega
  have e : (a <<< 1) + bitLimb c = (a <<< 1) ||| bitLimb c := by
    apply BitVec.add_eq_or_of_and_eq_zero
    apply BitVec.eq_of_getLsbD_eq
    intro i hi
    cases i <;> cases c <;> simp [bitLimb, hi]
  rw [e]
  cases b with
  | zero => cases c <;> simp [bitLimb, hn]
  | succ b =>
    have hb' : b < n := by omega
    cases c <;> simp [bitLimb, hb, BitVec.getLsbD_eq_getElem hb']

/-- A limb shifted down by one with a bit entering at the top. -/
theorem getLsbD_shrLimb (a : Limb n) (c : Bool) {b : Nat} (hb : b < n) :
    ((a >>> 1) + (bitLimb c <<< (n - 1))).getLsbD b = if b = n - 1 then c else a.getLsbD (b + 1) := by
  have hc : ∀ i, i < n → (bitLimb c <<< (n - 1) : Limb n).getLsbD i = (decide (i = n - 1) && c) := by
    intro i hi
    rw [BitVec.getLsbD_shiftLeft]
    rcases Nat.lt_or_ge i (n - 1) with h | h
    · have : ¬i = n - 1 := by omega
      simp [h, this]
    · have h' : i = n - 1 := by omega
      cases c <;> simp [bitLimb, h', Nat.pos_of_ne_zero (by omega : n ≠ 0)]
  have e : (a >>> 1) + (bitLimb c <<< (n - 1)) = (a >>> 1) ||| (bitLimb c <<< (n - 1)) := by
    apply BitVec.add_eq_or_of_and_eq_zero
    apply BitVec.eq_of_getLsbD_eq
    intro i hi
    rw [BitVec.getLsbD_and, hc i hi, BitVec.getLsbD_ushiftRight]
    by_cases h : i = n - 1
    · simp [h, BitVec.getLsbD_of_ge a (1 + (n - 1)) (by omega)]
    · simp [h]
  rw [e, BitVec.getLsbD_or, hc b hb, BitVec.getLsbD_ushiftRight, Nat.add_comm 1 b]
  by_cases h : b = n - 1
  · simp [h, BitVec.getLsbD_of_ge a (n - 1 + 1) (by omega)]
  · simp [h]

/-- `SHL1` moves every bit up by one (R100). -/
theorem getLsbD_shl1With (c : Bool) (a : Mws n) {m : Nat} (hm : m < 4 * n) :
    (shl1With c a).getLsbD m = if m = 0 then c else a.getLsbD (m - 1) := by
  have hn : 0 < n := by omega
  obtain ⟨i, b, hb, rfl⟩ := exists_limb_bit hm
  have key := getLsbD_ofLimbs (fun j : Fin 4 => (limb a j <<< 1) +
    bitLimb (if j = 0 then c else (limb a (j - 1)).msb)) i hb
  refine Eq.trans key ?_
  rw [getLsbD_shlLimb _ _ hb]
  by_cases h0 : b = 0
  · subst h0
    have top (j : Fin 4) : (limb a j).msb = a.getLsbD (n * j.val + (n - 1)) := by
      rw [BitVec.msb_eq_getLsbD_last, getLsbD_limb, decide_eq_true (by omega : n - 1 < n),
        Bool.true_and]
    match i with
    | 0 => rfl
    | 1 => exact (top 0).trans (by rw [if_neg (by simp; omega)]; congr 1; simp)
    | 2 => exact (top 1).trans (by rw [if_neg (by simp; omega)]; congr 1; simp; omega)
    | 3 => exact (top 2).trans (by rw [if_neg (by simp; omega)]; congr 1; simp; omega)
  · rw [if_neg h0, if_neg (by omega), getLsbD_limb, decide_eq_true (by omega : b - 1 < n),
      Bool.true_and, Nat.add_sub_assoc (by omega)]

/-- `SHR1` moves every bit down by one (R101). -/
theorem getLsbD_shr1With (c : Bool) (a : Mws n) {m : Nat} (hm : m < 4 * n) :
    (shr1With c a).getLsbD m = if m = 4 * n - 1 then c else a.getLsbD (m + 1) := by
  have hn : 0 < n := by omega
  obtain ⟨i, b, hb, rfl⟩ := exists_limb_bit hm
  have key := getLsbD_ofLimbs (fun j : Fin 4 => (limb a j >>> 1) +
    (bitLimb (if j = 3 then c else (limb a (j + 1)).getLsbD 0) <<< (n - 1))) i hb
  refine Eq.trans key ?_
  rw [getLsbD_shrLimb _ _ hb]
  by_cases h0 : b = n - 1
  · subst h0
    have bottom (j : Fin 4) : (limb a j).getLsbD 0 = a.getLsbD (n * j.val) := by
      rw [getLsbD_limb, decide_eq_true hn, Bool.true_and, Nat.add_zero]
    rw [if_pos rfl]
    match i with
    | 0 => exact (bottom 1).trans (by rw [if_neg (by simp; omega)]; congr 1; simp; omega)
    | 1 => exact (bottom 2).trans (by rw [if_neg (by simp; omega)]; congr 1; simp; omega)
    | 2 => exact (bottom 3).trans (by rw [if_neg (by simp; omega)]; congr 1; simp; omega)
    | 3 => exact (if_pos (by simp; omega)).symm
  · have hi : n * i.val ≤ n * 3 := Nat.mul_le_mul_left _ (by omega)
    rw [if_neg h0, getLsbD_limb, decide_eq_true (by omega : b + 1 < n), Bool.true_and,
      if_neg (by omega), Nat.add_assoc]

/-- One pass of the loop of R111: sum and carry out together are the true sum. -/
theorem addLimb_spec (a b : Limb n) {c : Nat} (hc : c ≤ 1) :
    (addLimb a b c).1.toNat + 2 ^ n * (addLimb a b c).2 = a.toNat + b.toNat + c ∧
      (addLimb a b c).2 ≤ 1 := by
  have ha := a.isLt
  have hb := b.isLt
  simp only [addLimb, BitVec.toNat_ofNat]
  split
  · rename_i h
    refine ⟨?_, Nat.le_refl 1⟩
    rw [Nat.mod_eq_sub_mod h, Nat.mod_eq_of_lt (by omega)]
    omega
  · rename_i h
    rw [Nat.mod_eq_of_lt (by omega)]
    omega

end Sys2Proof.Machine
end

