-- ==== Sys2Proof/Laws/State.lean ====
section
/-! SUPPORT. One lemma per field per update of the state, each true by rfl, so that no proof unfolds a
record update; and the laws of reading a register after an update. -/

namespace Sys2Proof.Machine

variable (s : State)

section setX

@[simp] theorem State.setX_x (r : Reg) (v : Word) : (s.setX r v).x = s.x.set r.val v r.isLt := rfl
@[simp] theorem State.setX_eqFlag (r : Reg) (v : Word) : (s.setX r v).eqFlag = s.eqFlag := rfl
@[simp] theorem State.setX_err (r : Reg) (v : Word) : (s.setX r v).err = s.err := rfl
@[simp] theorem State.setX_cfg (r : Reg) (v : Word) : (s.setX r v).cfg = s.cfg := rfl
@[simp] theorem State.setX_mode (r : Reg) (v : Word) : (s.setX r v).mode = s.mode := rfl
@[simp] theorem State.setX_phase (r : Reg) (v : Word) : (s.setX r v).phase = s.phase := rfl
@[simp] theorem State.setX_par (r : Reg) (v : Word) : (s.setX r v).par = s.par := rfl
@[simp] theorem State.setX_rmask (r : Reg) (v : Word) : (s.setX r v).rmask = s.rmask := rfl
@[simp] theorem State.setX_kmask (r : Reg) (v : Word) : (s.setX r v).kmask = s.kmask := rfl
@[simp] theorem State.setX_st (r : Reg) (v : Word) : (s.setX r v).st = s.st := rfl
@[simp] theorem State.setX_dn (r : Reg) (v : Word) : (s.setX r v).dn = s.dn := rfl
@[simp] theorem State.setX_key (r : Reg) (v : Word) : (s.setX r v).key = s.key := rfl
@[simp] theorem State.setX_keys (r : Reg) (v : Word) : (s.setX r v).keys = s.keys := rfl
@[simp] theorem State.setX_seeds (r : Reg) (v : Word) : (s.setX r v).seeds = s.seeds := rfl
@[simp] theorem State.setX_j (r : Reg) (v : Word) : (s.setX r v).j = s.j := rfl
@[simp] theorem State.setX_inbox (r : Reg) (v : Word) : (s.setX r v).inbox = s.inbox := rfl
@[simp] theorem State.setX_drawn (r : Reg) (v : Word) : (s.setX r v).drawn = s.drawn := rfl
@[simp] theorem State.setX_log (r : Reg) (v : Word) : (s.setX r v).log = s.log := rfl

end setX

section setCfg

@[simp] theorem State.setCfg_x (c : CfgReg) (v : BitVec 16) : (s.setCfg c v).x = s.x := rfl
@[simp] theorem State.setCfg_eqFlag (c : CfgReg) (v : BitVec 16) : (s.setCfg c v).eqFlag = s.eqFlag := rfl
@[simp] theorem State.setCfg_err (c : CfgReg) (v : BitVec 16) : (s.setCfg c v).err = s.err := rfl
@[simp] theorem State.setCfg_cfg (c : CfgReg) (v : BitVec 16) : (s.setCfg c v).cfg = s.cfg.set c v := rfl
@[simp] theorem State.setCfg_mode (c : CfgReg) (v : BitVec 16) : (s.setCfg c v).mode = s.mode := rfl
@[simp] theorem State.setCfg_phase (c : CfgReg) (v : BitVec 16) : (s.setCfg c v).phase = s.phase := rfl
@[simp] theorem State.setCfg_par (c : CfgReg) (v : BitVec 16) : (s.setCfg c v).par = s.par := rfl
@[simp] theorem State.setCfg_rmask (c : CfgReg) (v : BitVec 16) : (s.setCfg c v).rmask = s.rmask := rfl
@[simp] theorem State.setCfg_kmask (c : CfgReg) (v : BitVec 16) : (s.setCfg c v).kmask = s.kmask := rfl
@[simp] theorem State.setCfg_st (c : CfgReg) (v : BitVec 16) : (s.setCfg c v).st = s.st := rfl
@[simp] theorem State.setCfg_dn (c : CfgReg) (v : BitVec 16) : (s.setCfg c v).dn = s.dn := rfl
@[simp] theorem State.setCfg_key (c : CfgReg) (v : BitVec 16) : (s.setCfg c v).key = s.key := rfl
@[simp] theorem State.setCfg_keys (c : CfgReg) (v : BitVec 16) : (s.setCfg c v).keys = s.keys := rfl
@[simp] theorem State.setCfg_seeds (c : CfgReg) (v : BitVec 16) : (s.setCfg c v).seeds = s.seeds := rfl
@[simp] theorem State.setCfg_j (c : CfgReg) (v : BitVec 16) : (s.setCfg c v).j = s.j := rfl
@[simp] theorem State.setCfg_inbox (c : CfgReg) (v : BitVec 16) : (s.setCfg c v).inbox = s.inbox := rfl
@[simp] theorem State.setCfg_drawn (c : CfgReg) (v : BitVec 16) : (s.setCfg c v).drawn = s.drawn := rfl
@[simp] theorem State.setCfg_log (c : CfgReg) (v : BitVec 16) : (s.setCfg c v).log = s.log := rfl
@[simp] theorem State.setCfg_getX (c : CfgReg) (v : BitVec 16) (r' : Reg) : (s.setCfg c v).getX r' = s.getX r' := rfl

end setCfg

section respond

@[simp] theorem State.respond_x (e : Response) : (s.respond e).x = s.x := rfl
@[simp] theorem State.respond_eqFlag (e : Response) : (s.respond e).eqFlag = s.eqFlag := rfl
@[simp] theorem State.respond_err (e : Response) : (s.respond e).err = e := rfl
@[simp] theorem State.respond_cfg (e : Response) : (s.respond e).cfg = s.cfg := rfl
@[simp] theorem State.respond_mode (e : Response) : (s.respond e).mode = s.mode := rfl
@[simp] theorem State.respond_phase (e : Response) : (s.respond e).phase = s.phase := rfl
@[simp] theorem State.respond_par (e : Response) : (s.respond e).par = s.par := rfl
@[simp] theorem State.respond_rmask (e : Response) : (s.respond e).rmask = s.rmask := rfl
@[simp] theorem State.respond_kmask (e : Response) : (s.respond e).kmask = s.kmask := rfl
@[simp] theorem State.respond_st (e : Response) : (s.respond e).st = s.st := rfl
@[simp] theorem State.respond_dn (e : Response) : (s.respond e).dn = s.dn := rfl
@[simp] theorem State.respond_key (e : Response) : (s.respond e).key = s.key := rfl
@[simp] theorem State.respond_keys (e : Response) : (s.respond e).keys = s.keys := rfl
@[simp] theorem State.respond_seeds (e : Response) : (s.respond e).seeds = s.seeds := rfl
@[simp] theorem State.respond_j (e : Response) : (s.respond e).j = s.j := rfl
@[simp] theorem State.respond_inbox (e : Response) : (s.respond e).inbox = s.inbox := rfl
@[simp] theorem State.respond_drawn (e : Response) : (s.respond e).drawn = s.drawn := rfl
@[simp] theorem State.respond_log (e : Response) : (s.respond e).log = s.log ++ [.response e] := rfl
@[simp] theorem State.respond_getX (e : Response) (r' : Reg) : (s.respond e).getX r' = s.getX r' := rfl

end respond

section complete

@[simp] theorem State.complete_x : (s.complete).x = s.x := rfl
@[simp] theorem State.complete_eqFlag : (s.complete).eqFlag = s.eqFlag := rfl
@[simp] theorem State.complete_err : (s.complete).err = .ok := rfl
@[simp] theorem State.complete_cfg : (s.complete).cfg = s.cfg := rfl
@[simp] theorem State.complete_mode : (s.complete).mode = s.mode := rfl
@[simp] theorem State.complete_phase : (s.complete).phase = s.phase := rfl
@[simp] theorem State.complete_par : (s.complete).par = s.par := rfl
@[simp] theorem State.complete_rmask : (s.complete).rmask = s.rmask := rfl
@[simp] theorem State.complete_kmask : (s.complete).kmask = s.kmask := rfl
@[simp] theorem State.complete_st : (s.complete).st = s.st := rfl
@[simp] theorem State.complete_dn : (s.complete).dn = s.dn := rfl
@[simp] theorem State.complete_key : (s.complete).key = s.key := rfl
@[simp] theorem State.complete_keys : (s.complete).keys = s.keys := rfl
@[simp] theorem State.complete_seeds : (s.complete).seeds = s.seeds := rfl
@[simp] theorem State.complete_j : (s.complete).j = s.j := rfl
@[simp] theorem State.complete_inbox : (s.complete).inbox = s.inbox := rfl
@[simp] theorem State.complete_drawn : (s.complete).drawn = s.drawn := rfl
@[simp] theorem State.complete_log : (s.complete).log = s.log ++ [.response .ok] := rfl
@[simp] theorem State.complete_getX (r' : Reg) : (s.complete).getX r' = s.getX r' := rfl

end complete

section raise

@[simp] theorem State.raise_x (e : Response) : (s.raise e).x = s.x := rfl
@[simp] theorem State.raise_eqFlag (e : Response) : (s.raise e).eqFlag = s.eqFlag := rfl
@[simp] theorem State.raise_err (e : Response) : (s.raise e).err = e := rfl
@[simp] theorem State.raise_cfg (e : Response) : (s.raise e).cfg = s.cfg := rfl
@[simp] theorem State.raise_mode (e : Response) : (s.raise e).mode = s.mode := rfl
@[simp] theorem State.raise_phase (e : Response) : (s.raise e).phase = s.phase := rfl
@[simp] theorem State.raise_par (e : Response) : (s.raise e).par = s.par := rfl
@[simp] theorem State.raise_rmask (e : Response) : (s.raise e).rmask = s.rmask := rfl
@[simp] theorem State.raise_kmask (e : Response) : (s.raise e).kmask = s.kmask := rfl
@[simp] theorem State.raise_st (e : Response) : (s.raise e).st = s.st := rfl
@[simp] theorem State.raise_dn (e : Response) : (s.raise e).dn = s.dn := rfl
@[simp] theorem State.raise_key (e : Response) : (s.raise e).key = s.key := rfl
@[simp] theorem State.raise_keys (e : Response) : (s.raise e).keys = s.keys := rfl
@[simp] theorem State.raise_seeds (e : Response) : (s.raise e).seeds = s.seeds := rfl
@[simp] theorem State.raise_j (e : Response) : (s.raise e).j = s.j := rfl
@[simp] theorem State.raise_inbox (e : Response) : (s.raise e).inbox = s.inbox := rfl
@[simp] theorem State.raise_drawn (e : Response) : (s.raise e).drawn = s.drawn := rfl
@[simp] theorem State.raise_log (e : Response) : (s.raise e).log = s.log ++ [.response e] := rfl
@[simp] theorem State.raise_getX (e : Response) (r' : Reg) : (s.raise e).getX r' = s.getX r' := rfl

end raise

section logCalls

@[simp] theorem State.logCalls_x (calls : List (Word × Word)) : (s.logCalls calls).x = s.x := rfl
@[simp] theorem State.logCalls_eqFlag (calls : List (Word × Word)) : (s.logCalls calls).eqFlag = s.eqFlag := rfl
@[simp] theorem State.logCalls_err (calls : List (Word × Word)) : (s.logCalls calls).err = s.err := rfl
@[simp] theorem State.logCalls_cfg (calls : List (Word × Word)) : (s.logCalls calls).cfg = s.cfg := rfl
@[simp] theorem State.logCalls_mode (calls : List (Word × Word)) : (s.logCalls calls).mode = s.mode := rfl
@[simp] theorem State.logCalls_phase (calls : List (Word × Word)) : (s.logCalls calls).phase = s.phase := rfl
@[simp] theorem State.logCalls_par (calls : List (Word × Word)) : (s.logCalls calls).par = s.par := rfl
@[simp] theorem State.logCalls_rmask (calls : List (Word × Word)) : (s.logCalls calls).rmask = s.rmask := rfl
@[simp] theorem State.logCalls_kmask (calls : List (Word × Word)) : (s.logCalls calls).kmask = s.kmask := rfl
@[simp] theorem State.logCalls_st (calls : List (Word × Word)) : (s.logCalls calls).st = s.st := rfl
@[simp] theorem State.logCalls_dn (calls : List (Word × Word)) : (s.logCalls calls).dn = s.dn := rfl
@[simp] theorem State.logCalls_key (calls : List (Word × Word)) : (s.logCalls calls).key = s.key := rfl
@[simp] theorem State.logCalls_keys (calls : List (Word × Word)) : (s.logCalls calls).keys = s.keys := rfl
@[simp] theorem State.logCalls_seeds (calls : List (Word × Word)) : (s.logCalls calls).seeds = s.seeds := rfl
@[simp] theorem State.logCalls_j (calls : List (Word × Word)) : (s.logCalls calls).j = s.j := rfl
@[simp] theorem State.logCalls_inbox (calls : List (Word × Word)) : (s.logCalls calls).inbox = s.inbox := rfl
@[simp] theorem State.logCalls_drawn (calls : List (Word × Word)) : (s.logCalls calls).drawn = s.drawn := rfl
@[simp] theorem State.logCalls_log (calls : List (Word × Word)) : (s.logCalls calls).log = s.log ++ calls.map fun c => .permCall c.1 c.2 := rfl
@[simp] theorem State.logCalls_getX (calls : List (Word × Word)) (r' : Reg) : (s.logCalls calls).getX r' = s.getX r' := rfl

end logCalls

section consumeDraws

@[simp] theorem State.consumeDraws_x (count : Nat) : (s.consumeDraws count).x = s.x := rfl
@[simp] theorem State.consumeDraws_eqFlag (count : Nat) : (s.consumeDraws count).eqFlag = s.eqFlag := rfl
@[simp] theorem State.consumeDraws_err (count : Nat) : (s.consumeDraws count).err = s.err := rfl
@[simp] theorem State.consumeDraws_cfg (count : Nat) : (s.consumeDraws count).cfg = s.cfg := rfl
@[simp] theorem State.consumeDraws_mode (count : Nat) : (s.consumeDraws count).mode = s.mode := rfl
@[simp] theorem State.consumeDraws_phase (count : Nat) : (s.consumeDraws count).phase = s.phase := rfl
@[simp] theorem State.consumeDraws_par (count : Nat) : (s.consumeDraws count).par = s.par := rfl
@[simp] theorem State.consumeDraws_rmask (count : Nat) : (s.consumeDraws count).rmask = s.rmask := rfl
@[simp] theorem State.consumeDraws_kmask (count : Nat) : (s.consumeDraws count).kmask = s.kmask := rfl
@[simp] theorem State.consumeDraws_st (count : Nat) : (s.consumeDraws count).st = s.st := rfl
@[simp] theorem State.consumeDraws_dn (count : Nat) : (s.consumeDraws count).dn = s.dn := rfl
@[simp] theorem State.consumeDraws_key (count : Nat) : (s.consumeDraws count).key = s.key := rfl
@[simp] theorem State.consumeDraws_keys (count : Nat) : (s.consumeDraws count).keys = s.keys := rfl
@[simp] theorem State.consumeDraws_seeds (count : Nat) : (s.consumeDraws count).seeds = s.seeds := rfl
@[simp] theorem State.consumeDraws_j (count : Nat) : (s.consumeDraws count).j = s.j := rfl
@[simp] theorem State.consumeDraws_inbox (count : Nat) : (s.consumeDraws count).inbox = s.inbox := rfl
@[simp] theorem State.consumeDraws_drawn (count : Nat) : (s.consumeDraws count).drawn = s.drawn + count := rfl
@[simp] theorem State.consumeDraws_log (count : Nat) : (s.consumeDraws count).log = s.log ++ drawEvents s.drawn count := rfl
@[simp] theorem State.consumeDraws_getX (count : Nat) (r' : Reg) : (s.consumeDraws count).getX r' = s.getX r' := rfl

end consumeDraws

section engineClear

@[simp] theorem State.engineClear_x : (s.engineClear).x = s.x := rfl
@[simp] theorem State.engineClear_eqFlag : (s.engineClear).eqFlag = s.eqFlag := rfl
@[simp] theorem State.engineClear_err : (s.engineClear).err = s.err := rfl
@[simp] theorem State.engineClear_cfg : (s.engineClear).cfg = s.cfg := rfl
@[simp] theorem State.engineClear_mode : (s.engineClear).mode = s.mode := rfl
@[simp] theorem State.engineClear_phase : (s.engineClear).phase = .uninit := rfl
@[simp] theorem State.engineClear_par : (s.engineClear).par = Params.zero := rfl
@[simp] theorem State.engineClear_rmask : (s.engineClear).rmask = 0 := rfl
@[simp] theorem State.engineClear_kmask : (s.engineClear).kmask = 0 := rfl
@[simp] theorem State.engineClear_st : (s.engineClear).st = 0 := rfl
@[simp] theorem State.engineClear_dn : (s.engineClear).dn = 0 := rfl
@[simp] theorem State.engineClear_key : (s.engineClear).key = 0 := rfl
@[simp] theorem State.engineClear_keys : (s.engineClear).keys = Vector.replicate Config.UMAX 0 := rfl
@[simp] theorem State.engineClear_seeds : (s.engineClear).seeds = Vector.replicate Config.SMAX 0 := rfl
@[simp] theorem State.engineClear_j : (s.engineClear).j = 0 := rfl
@[simp] theorem State.engineClear_inbox : (s.engineClear).inbox = s.inbox := rfl
@[simp] theorem State.engineClear_drawn : (s.engineClear).drawn = s.drawn := rfl
@[simp] theorem State.engineClear_log : (s.engineClear).log = s.log := rfl
@[simp] theorem State.engineClear_getX (r' : Reg) : (s.engineClear).getX r' = s.getX r' := rfl

end engineClear

section answerRead

@[simp] theorem State.answerRead_x (addr : BitVec 6) : (s.answerRead addr).x = s.x := rfl
@[simp] theorem State.answerRead_eqFlag (addr : BitVec 6) : (s.answerRead addr).eqFlag = s.eqFlag := rfl
@[simp] theorem State.answerRead_err (addr : BitVec 6) : (s.answerRead addr).err = s.err := rfl
@[simp] theorem State.answerRead_cfg (addr : BitVec 6) : (s.answerRead addr).cfg = s.cfg := rfl
@[simp] theorem State.answerRead_mode (addr : BitVec 6) : (s.answerRead addr).mode = s.mode := rfl
@[simp] theorem State.answerRead_phase (addr : BitVec 6) : (s.answerRead addr).phase = s.phase := rfl
@[simp] theorem State.answerRead_par (addr : BitVec 6) : (s.answerRead addr).par = s.par := rfl
@[simp] theorem State.answerRead_rmask (addr : BitVec 6) : (s.answerRead addr).rmask = s.rmask := rfl
@[simp] theorem State.answerRead_kmask (addr : BitVec 6) : (s.answerRead addr).kmask = s.kmask := rfl
@[simp] theorem State.answerRead_st (addr : BitVec 6) : (s.answerRead addr).st = s.st := rfl
@[simp] theorem State.answerRead_dn (addr : BitVec 6) : (s.answerRead addr).dn = s.dn := rfl
@[simp] theorem State.answerRead_key (addr : BitVec 6) : (s.answerRead addr).key = s.key := rfl
@[simp] theorem State.answerRead_keys (addr : BitVec 6) : (s.answerRead addr).keys = s.keys := rfl
@[simp] theorem State.answerRead_seeds (addr : BitVec 6) : (s.answerRead addr).seeds = s.seeds := rfl
@[simp] theorem State.answerRead_j (addr : BitVec 6) : (s.answerRead addr).j = s.j := rfl
@[simp] theorem State.answerRead_inbox (addr : BitVec 6) : (s.answerRead addr).inbox = s.inbox := rfl
@[simp] theorem State.answerRead_drawn (addr : BitVec 6) : (s.answerRead addr).drawn = s.drawn := rfl
@[simp] theorem State.answerRead_log (addr : BitVec 6) : (s.answerRead addr).log = s.log ++ [.readData (s.memRead addr)] := rfl
@[simp] theorem State.answerRead_getX (addr : BitVec 6) (r' : Reg) : (s.answerRead addr).getX r' = s.getX r' := rfl

end answerRead

section reset

@[simp] theorem State.resetCore_inbox : s.resetCore.inbox = s.inbox := rfl
@[simp] theorem State.resetCore_drawn : s.resetCore.drawn = s.drawn := rfl
@[simp] theorem State.resetCore_log : s.resetCore.log = s.log := rfl
@[simp] theorem State.pushCommand_inbox (w : CommandWord) :
    (s.pushCommand w).inbox = .command w :: s.inbox := rfl

end reset

/-- A register reads the value last written to it. -/
@[simp] theorem State.getX_setX_self (r : Reg) (v : Word) : (s.setX r v).getX r = v :=
  Vector.getElem_set_self r.isLt

/-- A write to one register leaves every other register alone. -/
theorem State.getX_setX_ne {r r' : Reg} (v : Word) (h : r' ≠ r) :
    (s.setX r v).getX r' = s.getX r' :=
  Vector.getElem_set_ne r.isLt r'.isLt fun e => h (Fin.ext e.symm)

/-- Reading any register after a write, in one equation. -/
theorem State.getX_setX (r r' : Reg) (v : Word) :
    (s.setX r v).getX r' = if r' = r then v else s.getX r' := by
  split
  · next h => subst h; exact s.getX_setX_self r' v
  · next h => exact s.getX_setX_ne v h

/-- Two states whose registers all read alike have the same register file. -/
theorem State.x_ext {s t : State} (h : ∀ r, s.getX r = t.getX r) : s.x = t.x := by
  apply Vector.ext
  intro i hi
  exact h ⟨i, hi⟩

/-- Every register reads zero after reset (R40). -/
@[simp] theorem State.reset_getX (r : Reg) : State.reset.getX r = 0 := by
  simp [State.getX, State.reset, Vector.get]

end Sys2Proof.Machine
end

