-- ==== Sys2Proof/Laws/Ops.lean ====
section
/-! SUPPORT. What each shared operation can do, said once: the equality test, the amount check, the
permutation loops, the indexed keys and seeds, the data port. -/

namespace Sys2Proof.Machine

/-- `EQ_W` is equality of the values (R94: "Equivalently ... iff the W-bit integers are equal"). -/
theorem eqW_iff {n : Nat} (a b : Mws n) : eqW a b = true ↔ a = b := by
  constructor
  · intro h
    simp only [eqW, Bool.and_eq_true, beq_iff_eq] at h
    obtain ⟨⟨⟨h0, h1⟩, h2⟩, h3⟩ := h
    apply eq_of_limbs
    intro i
    match i with
    | 0 => exact h0
    | 1 => exact h1
    | 2 => exact h2
    | 3 => exact h3
  · rintro rfl
    simp [eqW]

/-- The negative form of `eqW_iff`. -/
theorem eqW_eq_false_iff {n : Nat} (a b : Mws n) : eqW a b = false ↔ a ≠ b := by
  rw [← Bool.not_eq_true, not_congr (eqW_iff a b)]

/-- A shift or rotate in range writes its result (R104). -/
theorem shiftCommand_of_lt (f : Word → Nat → Word) (rd ra : Reg) {imm16 : BitVec 16} (s : State)
    (h : imm16.toNat < Config.W) :
    shiftCommand f rd ra imm16 s = (s.setX rd (f (s.getX ra) imm16.toNat)).complete := by
  simp [shiftCommand, amount, Nat.not_le.mpr h]

/-- A shift or rotate out of range raises `OperandRange` (R104). -/
theorem shiftCommand_of_ge (f : Word → Nat → Word) (rd ra : Reg) {imm16 : BitVec 16} (s : State)
    (h : Config.W ≤ imm16.toNat) :
    shiftCommand f rd ra imm16 s = s.raise .operandRange := by
  simp [shiftCommand, amount, h]

/-- Every event of the nonce loop is a call answered by P, and there is one per nonce bit (R143). -/
theorem absorbNonce_calls {n : Nat} (P : Mws n → Mws n) (inject : NonceInject) (nonce : Mws n)
    (todo i : Nat) (s : Mws n) :
    (absorbNonce P inject nonce todo i s).2.length = todo ∧
      ∀ c ∈ (absorbNonce P inject nonce todo i s).2, c.2 = P c.1 := by
  induction todo generalizing i s with
  | zero => simp [absorbNonce]
  | succ todo ih =>
    obtain ⟨hl, hc⟩ := ih (i + 1) (P (s ^^^ nonceWord inject nonce i))
    simp only [absorbNonce, permute, List.singleton_append, List.length_cons, hl, List.mem_cons,
      forall_eq_or_imp, true_and]
    exact hc

/-- Every event of the truncation loop is a call answered by P, one per round (R163). -/
theorem prgTruncate_calls {n : Nat} (P : Mws n → Mws n) (rmask : Mws n) (count : Nat) (s : Mws n) :
    (prgTruncate P rmask count s).2.length = count ∧
      ∀ c ∈ (prgTruncate P rmask count s).2, c.2 = P c.1 := by
  induction count generalizing s with
  | zero => simp [prgTruncate]
  | succ count ih =>
    obtain ⟨hl, hc⟩ := ih (P (s &&& ~~~rmask))
    simp only [prgTruncate, permute, List.singleton_append, List.length_cons, hl, List.mem_cons,
      forall_eq_or_imp, true_and]
    exact hc

/-- The truncation loop uses only the capacity bits of the state it starts from, once it runs at all
(R163). -/
theorem prgTruncate_capacity {n : Nat} (P : Mws n → Mws n) (rmask : Mws n) (count : Nat)
    {a b : Mws n} (h : a &&& ~~~rmask = b &&& ~~~rmask) :
    prgTruncate P rmask (count + 1) a = prgTruncate P rmask (count + 1) b := by
  simp only [prgTruncate, h]

/-- What a key slot holds after SETUP.DUP (R130). -/
theorem getElem?_sampledKeys (s : State) {i : Nat} (hi : i < Config.UMAX) :
    s.sampledKeys[i]? =
      some (if i < s.cfg.u.toNat then s.sample i &&& mask Config.W s.cfg.k.toNat else 0) := by
  simp [State.sampledKeys, hi]

/-- What a seed slot holds after SETUP.PRG (R160). -/
theorem getElem?_sampledSeeds (s : State) {i : Nat} (hi : i < Config.SMAX) :
    s.sampledSeeds[i]? =
      some (if i < s.cfg.s.toNat then s.sample i &&& mask Config.W s.cfg.r.toNat else 0) := by
  simp [State.sampledSeeds, hi]

/-- `setLimb` replaces one limb and keeps the other three (R55). -/
theorem limb_setLimb {n : Nat} (v : Mws n) (i j : Fin 4) (d : Limb n) :
    limb (setLimb v i d) j = if i = j then d else limb v j := by
  rw [setLimb, limb_ofLimbs]
  match j with
  | 0 => rfl
  | 1 => rfl
  | 2 => rfl
  | 3 => rfl

/-- The sample's limbs are the draws in order (R124). -/
theorem limb_sampleW {n : Nat} (draw : Nat → Limb n) (d : Nat) (i : Fin 4) :
    limb (sampleW draw d) i = draw (d + i.val) := by
  rw [sampleW, limb_ofLimbs]
  match i with
  | 0 => rfl
  | 1 => rfl
  | 2 => rfl
  | 3 => rfl

/-- As many draw events as draws (R123). -/
@[simp] theorem length_drawEvents (drawn count : Nat) : (drawEvents drawn count).length = count := by
  simp [drawEvents]

/-- A step takes the oldest interaction (R195). -/
theorem step_of_inbox {s : State} {req : HostRequest} {rest : List HostRequest}
    (h : s.inbox = req :: rest) : step s = perform req { s with inbox := rest } := by
  simp [step, h]

/-- An idle core stays as it is (R201). -/
theorem step_of_idle {s : State} (h : s.inbox = []) : step s = .next s := by
  simp [step, h]

end Sys2Proof.Machine
end

