-- ==== Sys2Proof/Laws/PerInstr.lean ====
section
/-! SUPPORT. For every command: the word the encoder gives it matches the command's own row of the opcode
table (R74), unused fields zero (R75). -/

namespace Sys2Proof

/-- A mask taken field by field. -/
theorem append_and_append {a b : Nat} (x m : BitVec a) (y k : BitVec b) :
    (x ++ y) &&& (m ++ k) = (x &&& m) ++ (y &&& k) := by
  simp

/-- A format R word under a mask that keeps the opcode and `zero12`. -/
theorem formatR_and (op : BitVec 8) (rd ra rb : Fin 16) (md ma mb : BitVec 4) :
    formatR op rd ra rb &&& (0xFF#8 ++ md ++ ma ++ mb ++ 0xFFF#12) =
      op ++ (BitVec.ofNat 4 rd.val &&& md) ++ (BitVec.ofNat 4 ra.val &&& ma) ++
        (BitVec.ofNat 4 rb.val &&& mb) ++ 0#12 := by
  have e : op &&& 0xFF#8 = op := BitVec.and_allOnes (x := op)
  unfold formatR
  exact (append_and_append _ _ _ _).trans (by
    rw [append_and_append, append_and_append, append_and_append, e, BitVec.zero_and])

/-- A format I word under a mask that keeps the opcode. -/
theorem formatI_and (op : BitVec 8) (rd ra : Fin 16) (imm : BitVec 16) (md ma : BitVec 4)
    (mi : BitVec 16) :
    formatI op rd ra imm &&& (0xFF#8 ++ md ++ ma ++ mi) =
      op ++ (BitVec.ofNat 4 rd.val &&& md) ++ (BitVec.ofNat 4 ra.val &&& ma) ++ (imm &&& mi) := by
  have e : op &&& 0xFF#8 = op := BitVec.and_allOnes (x := op)
  unfold formatI
  exact (append_and_append _ _ _ _).trans (by
    rw [append_and_append, append_and_append, e])

/-- The word of a format R command matches a row that masks its unused fields. -/
theorem formatR_covers {op : BitVec 8} {rd ra rb : Fin 16} {row : OpcodeRow} (md ma mb : BitVec 4)
    (hm : row.mask = 0xFF#8 ++ md ++ ma ++ mb ++ 0xFFF#12)
    (hp : row.pattern = op ++ (BitVec.ofNat 4 rd.val &&& md) ++ (BitVec.ofNat 4 ra.val &&& ma) ++
      (BitVec.ofNat 4 rb.val &&& mb) ++ 0#12) :
    row.covers (formatR op rd ra rb) = true := by
  unfold OpcodeRow.covers
  rw [beq_iff_eq, hm, hp]
  exact formatR_and op rd ra rb md ma mb

/-- The word of a format I command matches a row that masks its unused fields. -/
theorem formatI_covers {op : BitVec 8} {rd ra : Fin 16} {imm : BitVec 16} {row : OpcodeRow}
    (md ma : BitVec 4) (mi : BitVec 16) (hm : row.mask = 0xFF#8 ++ md ++ ma ++ mi)
    (hp : row.pattern = op ++ (BitVec.ofNat 4 rd.val &&& md) ++ (BitVec.ofNat 4 ra.val &&& ma) ++
      (imm &&& mi)) :
    row.covers (formatI op rd ra imm) = true := by
  unfold OpcodeRow.covers
  rw [beq_iff_eq, hm, hp]
  exact formatI_and op rd ra imm md ma mi

end Sys2Proof

namespace Sys2Proof.Laws.EncodedWord

/-- The encoder's word for a command matches the command's own row of R74. -/
def Statement (i : Instr) : Prop := i.row.covers (encode i) = true

theorem not (rd ra : Fin 16) : Statement (.not rd ra) :=
  formatR_covers 0#4 0#4 15#4 rfl (by simp only [BitVec.and_zero]; rfl)

theorem and (rd ra rb : Fin 16) : Statement (.and rd ra rb) :=
  formatR_covers 0#4 0#4 0#4 rfl (by simp only [BitVec.and_zero]; rfl)

theorem or (rd ra rb : Fin 16) : Statement (.or rd ra rb) :=
  formatR_covers 0#4 0#4 0#4 rfl (by simp only [BitVec.and_zero]; rfl)

theorem xor (rd ra rb : Fin 16) : Statement (.xor rd ra rb) :=
  formatR_covers 0#4 0#4 0#4 rfl (by simp only [BitVec.and_zero]; rfl)

theorem cmpeq (ra rb : Fin 16) : Statement (.cmpeq ra rb) :=
  formatR_covers 15#4 0#4 0#4 rfl (by simp only [BitVec.and_zero]; rfl)

theorem shl (rd ra : Fin 16) (imm16 : BitVec 16) : Statement (.shl rd ra imm16) :=
  formatI_covers 0#4 0#4 0#16 rfl (by simp only [BitVec.and_zero]; rfl)

theorem shr (rd ra : Fin 16) (imm16 : BitVec 16) : Statement (.shr rd ra imm16) :=
  formatI_covers 0#4 0#4 0#16 rfl (by simp only [BitVec.and_zero]; rfl)

theorem rotl (rd ra : Fin 16) (imm16 : BitVec 16) : Statement (.rotl rd ra imm16) :=
  formatI_covers 0#4 0#4 0#16 rfl (by simp only [BitVec.and_zero]; rfl)

theorem rotr (rd ra : Fin 16) (imm16 : BitVec 16) : Statement (.rotr rd ra imm16) :=
  formatI_covers 0#4 0#4 0#16 rfl (by simp only [BitVec.and_zero]; rfl)

theorem add (rd ra rb : Fin 16) : Statement (.add rd ra rb) :=
  formatR_covers 0#4 0#4 0#4 rfl (by simp only [BitVec.and_zero]; rfl)

theorem sub (rd ra rb : Fin 16) : Statement (.sub rd ra rb) :=
  formatR_covers 0#4 0#4 0#4 rfl (by simp only [BitVec.and_zero]; rfl)

theorem rand (rd : Fin 16) : Statement (.rand rd) :=
  formatR_covers 0#4 15#4 15#4 rfl (by simp only [BitVec.and_zero]; rfl)

theorem perm (rd ra : Fin 16) : Statement (.perm rd ra) :=
  formatR_covers 0#4 0#4 15#4 rfl (by simp only [BitVec.and_zero]; rfl)

theorem csrw (csr : Fin 16) (imm16 : BitVec 16) : Statement (.csrw csr imm16) :=
  formatI_covers 0#4 15#4 0#16 rfl (by simp only [BitVec.and_zero]; rfl)

theorem csrr (rd csr : Fin 16) : Statement (.csrr rd csr) :=
  formatR_covers 0#4 0#4 15#4 rfl (by simp only [BitVec.and_zero]; rfl)

theorem setupDup : Statement (.setupDup) :=
  rfl

theorem dupReset (ra : Fin 16) : Statement (.dupReset ra) :=
  formatR_covers 15#4 0#4 15#4 rfl (by simp only [BitVec.and_zero]; rfl)

theorem dupDuplex (rd ra : Fin 16) (f : Bool) : Statement (.dupDuplex rd ra f) :=
  formatI_covers 0#4 0#4 0xFFFE#16 rfl (by simp only [BitVec.and_zero]; cases f <;> rfl)

theorem setupAsk : Statement (.setupAsk) :=
  rfl

theorem askRekey (ra : Fin 16) : Statement (.askRekey ra) :=
  formatR_covers 15#4 0#4 15#4 rfl (by simp only [BitVec.and_zero]; rfl)

theorem askInit (ra : Fin 16) : Statement (.askInit ra) :=
  formatR_covers 15#4 0#4 15#4 rfl (by simp only [BitVec.and_zero]; rfl)

theorem askNext (rd : Fin 16) : Statement (.askNext rd) :=
  formatR_covers 0#4 15#4 15#4 rfl (by simp only [BitVec.and_zero]; rfl)

theorem setupDss : Statement (.setupDss) :=
  rfl

theorem dssRekey (ra : Fin 16) : Statement (.dssRekey ra) :=
  formatR_covers 15#4 0#4 15#4 rfl (by simp only [BitVec.and_zero]; rfl)

theorem dssInit (ra : Fin 16) : Statement (.dssInit ra) :=
  formatR_covers 15#4 0#4 15#4 rfl (by simp only [BitVec.and_zero]; rfl)

theorem dssNext (rd : Fin 16) : Statement (.dssNext rd) :=
  formatR_covers 0#4 15#4 15#4 rfl (by simp only [BitVec.and_zero]; rfl)

theorem setupPrg : Statement (.setupPrg) :=
  rfl

theorem prgRefresh (ra : Fin 16) : Statement (.prgRefresh ra) :=
  formatR_covers 15#4 0#4 15#4 rfl (by simp only [BitVec.and_zero]; rfl)

theorem prgNext (rd : Fin 16) : Statement (.prgNext rd) :=
  formatR_covers 0#4 15#4 15#4 rfl (by simp only [BitVec.and_zero]; rfl)

end Sys2Proof.Laws.EncodedWord
end

