-- ==== Sys2Proof/Laws/Pseudo.lean ====
section
/-! SUPPORT. What issuing commands does, said once: one command, a list of them, the expansion of
REFRESHN. -/

namespace Sys2Proof.Machine

/-- Issuing a command gives the state it answers. -/
theorem issue_of_next {i : Instr} {s t : State} (h : exec i s = .next t) : issue i s = t := by
  simp [issue, h]

/-- With nothing to issue the state stays as it is. -/
@[simp] theorem issueAll_nil (s : State) : issueAll [] s = s := rfl

/-- After a response 0 the host goes on with the rest (R146, R162). -/
theorem issueAll_cons_of_ok {i : Instr} {rest : List Instr} {s t : State} (h : exec i s = .next t)
    (ok : t.err = .ok) : issueAll (i :: rest) s = issueAll rest t := by
  simp [issueAll, issue_of_next h, ok]

/-- At the first nonzero response the host stops (R146, R162). -/
theorem issueAll_cons_of_error {i : Instr} {rest : List Instr} {s t : State} (h : exec i s = .next t)
    (bad : t.err ≠ .ok) : issueAll (i :: rest) s = t := by
  simp [issueAll, issue_of_next h, bad]

/-- The assembler refuses an empty list, and that alone (R162). -/
theorem refreshN_eq_error_iff (inputs : List Reg) (e : AssemblyError) :
    refreshN inputs = .error e ↔ inputs = [] := by
  cases inputs <;> cases e <;> simp [refreshN]

/-- The expansion of a list that is not empty (R162). -/
@[simp] theorem refreshN_cons (ra : Reg) (rest : List Reg) :
    refreshN (ra :: rest) = .ok (.prgRefresh ra :: rest.map .prgRefresh) := rfl

/-- Issuing the expansion of a list that is not empty (R162). -/
@[simp] theorem refreshAll_cons (ra : Reg) (rest : List Reg) (s : State) :
    refreshAll (ra :: rest) s = .ok (issueAll (.prgRefresh ra :: rest.map .prgRefresh) s) := rfl

end Sys2Proof.Machine
end

