-- ==== Sys2Proof/Tests/Slice0.lean ====
section
/-! SUPPORT. The model's own tests. Expected words, codes and values are those of spec/95_test_vectors.md
(the vector is named before each group) and of the rules' own examples; none comes from the model. The
vectors use N = 8 (W = 32), so values are tested on the value functions, which take the limb width, the
permutation and the draws as arguments; the commands are tested on states of the machine itself. The last
part shows, for each obligation with hypotheses, that something meets them. -/

namespace Sys2Proof.Machine

-- One theorem at a time: many threads with large stacks do not fit a bounded memory.
set_option Elab.async false

/-! ### Decoding (95 section 3.9, and R74's fields written out) -/

theorem test_decode_bitwise :
    decodeTableWord 32 0x10420000 = some (.not 4 2) ∧
    decodeTableWord 32 0x11312000 = some (.and 3 1 2) ∧
    decodeTableWord 32 0x12312000 = some (.or 3 1 2) ∧
    decodeTableWord 32 0x13867000 = some (.xor 8 6 7) ∧
    decodeTableWord 32 0x14034000 = some (.cmpeq 3 4) := by decide

theorem test_encode_bitwise :
    encode (.not 4 2) = 0x10420000 ∧
    encode (.and 3 1 2) = 0x11312000 ∧
    encode (.or 3 1 2) = 0x12312000 ∧
    encode (.xor 8 6 7) = 0x13867000 ∧
    encode (.cmpeq 3 4) = 0x14034000 := by decide

theorem test_decode_shift :
    decodeTableWord 32 0x18630009 = some (.shl 6 3 9) ∧
    decodeTableWord 32 0x19630009 = some (.shr 6 3 9) ∧
    decodeTableWord 32 0x1A00001F = some (.rotl 0 0 31) ∧
    decodeTableWord 32 0x1B730004 = some (.rotr 7 3 4) := by decide

theorem test_encode_shift :
    encode (.shl 6 3 9) = 0x18630009 ∧
    encode (.shr 6 3 9) = 0x19630009 ∧
    encode (.rotl 0 0 31) = 0x1A00001F ∧
    encode (.rotr 7 3 4) = 0x1B730004 := by decide

theorem test_decode_arith :
    decodeTableWord 32 0x20312000 = some (.add 3 1 2) ∧
    decodeTableWord 32 0x21312000 = some (.sub 3 1 2) ∧
    decodeTableWord 32 0x21FFF000 = some (.sub 15 15 15) := by decide

theorem test_encode_arith :
    encode (.add 3 1 2) = 0x20312000 ∧
    encode (.sub 3 1 2) = 0x21312000 ∧
    encode (.sub 15 15 15) = 0x21FFF000 := by decide

theorem test_decode_system :
    decodeTableWord 32 0x28100000 = some (.rand 1) ∧
    decodeTableWord 32 0x29100000 = some (.perm 1 0) ∧
    decodeTableWord 32 0x3000000C = some (.csrw 0 12) ∧
    decodeTableWord 32 0x31480000 = some (.csrr 4 8) := by decide

theorem test_encode_system :
    encode (.rand 1) = 0x28100000 ∧
    encode (.perm 1 0) = 0x29100000 ∧
    encode (.csrw 0 12) = 0x3000000C ∧
    encode (.csrr 4 8) = 0x31480000 := by decide

theorem test_decode_duplex :
    decodeTableWord 32 0x40000000 = some (.setupDup) ∧
    decodeTableWord 32 0x41010000 = some (.dupReset 1) ∧
    decodeTableWord 32 0x42320001 = some (.dupDuplex 3 2 true) ∧
    decodeTableWord 32 0x42420000 = some (.dupDuplex 4 2 false) := by decide

theorem test_encode_duplex :
    encode (.setupDup) = 0x40000000 ∧
    encode (.dupReset 1) = 0x41010000 ∧
    encode (.dupDuplex 3 2 true) = 0x42320001 ∧
    encode (.dupDuplex 4 2 false) = 0x42420000 := by decide

theorem test_decode_asakey :
    decodeTableWord 32 0x50000000 = some (.setupAsk) ∧
    decodeTableWord 32 0x51010000 = some (.askRekey 1) ∧
    decodeTableWord 32 0x52020000 = some (.askInit 2) ∧
    decodeTableWord 32 0x53300000 = some (.askNext 3) := by decide

theorem test_encode_asakey :
    encode (.setupAsk) = 0x50000000 ∧
    encode (.askRekey 1) = 0x51010000 ∧
    encode (.askInit 2) = 0x52020000 ∧
    encode (.askNext 3) = 0x53300000 := by decide

theorem test_decode_dss :
    decodeTableWord 32 0x60000000 = some (.setupDss) ∧
    decodeTableWord 32 0x61010000 = some (.dssRekey 1) ∧
    decodeTableWord 32 0x62020000 = some (.dssInit 2) ∧
    decodeTableWord 32 0x63300000 = some (.dssNext 3) := by decide

theorem test_encode_dss :
    encode (.setupDss) = 0x60000000 ∧
    encode (.dssRekey 1) = 0x61010000 ∧
    encode (.dssInit 2) = 0x62020000 ∧
    encode (.dssNext 3) = 0x63300000 := by decide

theorem test_decode_prng :
    decodeTableWord 32 0x70000000 = some (.setupPrg) ∧
    decodeTableWord 32 0x71010000 = some (.prgRefresh 1) ∧
    decodeTableWord 32 0x72200000 = some (.prgNext 2) := by decide

theorem test_encode_prng :
    encode (.setupPrg) = 0x70000000 ∧
    encode (.prgRefresh 1) = 0x71010000 ∧
    encode (.prgNext 2) = 0x72200000 := by decide

/-- Format R and format I bit by bit (R71, R72): ADD x5, x10, x3 and SHR x12, x6, 0xA5C3. -/
theorem test_decode_bits :
    decode 0b00100000010110100011000000000000 = .ok (.add 5 10 3) ∧
    decode 0b00011001110001101010010111000011 = .ok (.shr 12 6 0xA5C3) := by decide

/-- The malformed words of 95 section 3.9, rejected by name. -/
theorem test_decode_unassigned :
    [0x00000000, 0xFFFFFFFF, 0x15000000, 0x22000000, 0x54000000, 0x73000000].map decode =
      List.replicate 6 (.error .unassignedOpcode) := by decide

theorem test_decode_nonzero_field :
    [0x10001000, 0x10000001, 0x14100000, 0x28010000, 0x40000001, 0x42210002, 0x42210003].map decode =
      List.replicate 7 (.error .nonzeroUnusedField) := by decide

/-! ### WellFormed: an ill-formed term for each check -/

theorem test_word_check_refuses :
    [0x00000000, 0xFFFFFFFF, 0x15000000, 0x10001000, 0x14100000, 0x28010000, 0x40000001,
      0x42210002].map wordWellFormed = List.replicate 8 false := by decide

theorem test_word_check_accepts :
    [0x10420000, 0x14034000, 0x1800FFFF, 0x30600001, 0x42320001, 0x72200000].map wordWellFormed =
      List.replicate 6 true := by decide

/-- The table is the one of spec/opcode_table.json: 29 mnemonics. -/
theorem test_table_mnemonics : opcodeTable.map OpcodeRow.mnemonic =
    ["NOT", "AND", "OR", "XOR", "CMPEQ", "SHL", "SHR", "ROTL", "ROTR", "ADD", "SUB", "RAND", "PERM",
     "CSRW", "CSRR", "SETUP.DUP", "DUP.RESET", "DUP.DUPLEX", "SETUP.ASK", "ASK.REKEY", "ASK.INIT",
     "ASK.NEXT", "SETUP.DSS", "DSS.REKEY", "DSS.INIT", "DSS.NEXT", "SETUP.PRG", "PRG.REFRESH",
     "PRG.NEXT"] := by decide

theorem test_csrw_check_refuses :
    (Instr.csrw 6 1).wellFormed = false ∧ (Instr.csrw 8 0).wellFormed = false := by decide

theorem test_csrr_check_refuses :
    (Instr.csrr 0 6).wellFormed = false ∧ (Instr.csrr 0 12).wellFormed = false := by decide

/-- 65535 is above W on every instance (R6), so the amount check refuses it. -/
theorem test_amount_check_refuses :
    (Instr.shl 0 0 65535).wellFormed = false ∧ (Instr.shr 0 0 65535).wellFormed = false ∧
    (Instr.rotl 0 0 65535).wellFormed = false ∧ (Instr.rotr 0 0 65535).wellFormed = false := by
  have := Config.W_le
  have h : ¬(65535#16).toNat < Config.W := by simp; omega
  simp only [Instr.wellFormed]
  exact ⟨decide_eq_false h, decide_eq_false h, decide_eq_false h, decide_eq_false h⟩

/-! ### MWS-ALU values, N = 8 unless a row says otherwise (95 sections 3.1 to 3.3) -/

/-- Four limbs of 8 bits, limb 0 first, as the vectors write them. -/
def v8 (l0 l1 l2 l3 : BitVec 8) : Mws 8 := ofLimbs l0 l1 l2 l3

/-- Four limbs of 16 bits. -/
def v16 (l0 l1 l2 l3 : BitVec 16) : Mws 16 := ofLimbs l0 l1 l2 l3

/-- R9: the limbs [0x34, 0x12, 0x00, 0x80] are the integer 0x80001234. -/
theorem test_limb_order :
    v8 0x34 0x12 0x00 0x80 = 0x80001234 ∧ limb (v8 0x34 0x12 0x00 0x80) 3 = 0x80 := by decide

/-- V-BIT-1 to V-BIT-4. -/
theorem test_bitwise :
    v8 0xF0 0x0F 0xAA 0xFF &&& v8 0x3C 0x3C 0x0F 0x81 = v8 0x30 0x0C 0x0A 0x81 ∧
    v8 0xF0 0x0F 0xAA 0xFF ||| v8 0x3C 0x3C 0x0F 0x81 = v8 0xFC 0x3F 0xAF 0xFF ∧
    v8 0xF0 0x0F 0xAA 0xFF ^^^ v8 0x3C 0x3C 0x0F 0x81 = v8 0xCC 0x33 0xA5 0x7E ∧
    ~~~(v8 0xF0 0x0F 0xAA 0x00) = v8 0x0F 0xF0 0x55 0xFF := by decide

/-- V-BIT-8 to V-BIT-10. -/
theorem test_eqW :
    eqW (v8 0x12 0x34 0x56 0x78) (v8 0x12 0x34 0x56 0x78) = true ∧
    eqW (v8 0x12 0x34 0x56 0x78) (v8 0x12 0x34 0x56 0x79) = false ∧
    eqW (v8 0 0 0 0) (v8 0 0 0 0x80) = false := by decide

/-- V-SH-1 to V-SH-8. -/
theorem test_shl :
    [0, 1, 7, 8, 9, 16, 24, 31].map (shlW (v8 0x81 0x42 0x24 0x18)) =
      [v8 0x81 0x42 0x24 0x18,
       v8 0x02 0x85 0x48 0x30,
       v8 0x80 0x40 0x21 0x12,
       v8 0x00 0x81 0x42 0x24,
       v8 0x00 0x02 0x85 0x48,
       v8 0x00 0x00 0x81 0x42,
       v8 0x00 0x00 0x00 0x81,
       v8 0x00 0x00 0x00 0x80] := by decide +kernel

/-- V-SH-1 to V-SH-8. -/
theorem test_shr :
    [0, 1, 7, 8, 9, 16, 24, 31].map (shrW (v8 0x81 0x42 0x24 0x18)) =
      [v8 0x81 0x42 0x24 0x18,
       v8 0x40 0x21 0x12 0x0C,
       v8 0x85 0x48 0x30 0x00,
       v8 0x42 0x24 0x18 0x00,
       v8 0x21 0x12 0x0C 0x00,
       v8 0x24 0x18 0x00 0x00,
       v8 0x18 0x00 0x00 0x00,
       v8 0x00 0x00 0x00 0x00] := by decide +kernel

/-- V-SH-1 to V-SH-8. -/
theorem test_rotl :
    [0, 1, 7, 8, 9, 16, 24, 31].map (rotlW (v8 0x81 0x42 0x24 0x18)) =
      [v8 0x81 0x42 0x24 0x18,
       v8 0x02 0x85 0x48 0x30,
       v8 0x8C 0x40 0x21 0x12,
       v8 0x18 0x81 0x42 0x24,
       v8 0x30 0x02 0x85 0x48,
       v8 0x24 0x18 0x81 0x42,
       v8 0x42 0x24 0x18 0x81,
       v8 0x40 0x21 0x12 0x8C] := by decide +kernel

/-- V-SH-1 to V-SH-8. -/
theorem test_rotr :
    [0, 1, 7, 8, 9, 16, 24, 31].map (rotrW (v8 0x81 0x42 0x24 0x18)) =
      [v8 0x81 0x42 0x24 0x18,
       v8 0x40 0x21 0x12 0x8C,
       v8 0x85 0x48 0x30 0x02,
       v8 0x42 0x24 0x18 0x81,
       v8 0x21 0x12 0x8C 0x40,
       v8 0x24 0x18 0x81 0x42,
       v8 0x18 0x81 0x42 0x24,
       v8 0x02 0x85 0x48 0x30] := by decide +kernel

/-- N = 16: the shift rows under "Other limb widths". -/
theorem test_shift_n16 :
    shlW (v16 0x8001 0x0000 0xFFFF 0x7FFF) 1 = v16 0x0002 0x0001 0xFFFE 0xFFFF ∧
    shrW (v16 0x8001 0x0000 0xFFFF 0x7FFF) 1 = v16 0x4000 0x8000 0xFFFF 0x3FFF ∧
    rotlW (v16 0x8001 0x0000 0xFFFF 0x7FFF) 17 = v16 0xFFFF 0x0002 0x0001 0xFFFE := by decide +kernel

/-- The ADD rows of V-ADD-1 to V-ADD-15; V-ADD-9 and V-ADD-15 are the carry corner of 90 C1. -/
theorem test_add :
    addW (v8 0xFF 0x00 0x00 0x00) (v8 0x01 0x00 0x00 0x00) = v8 0x00 0x01 0x00 0x00 ∧
    addW (v8 0xFF 0xFF 0xFF 0xFF) (v8 0x01 0x00 0x00 0x00) = v8 0x00 0x00 0x00 0x00 ∧
    addW (v8 0x80 0x80 0x80 0x80) (v8 0x80 0x80 0x80 0x80) = v8 0x00 0x01 0x01 0x01 ∧
    addW (v8 0x34 0x12 0xFF 0x7F) (v8 0xCC 0xED 0x00 0x00) = v8 0x00 0x00 0x00 0x80 ∧
    addW (v8 0x01 0xFF 0x00 0x00) (v8 0xFF 0xFF 0x00 0x00) = v8 0x00 0xFF 0x01 0x00 ∧
    addW (v8 0x78 0x56 0x34 0x12) (v8 0x00 0x00 0x00 0x00) = v8 0x78 0x56 0x34 0x12 ∧
    addW (v8 0xFF 0xFF 0xFF 0x7F) (v8 0x01 0x00 0x00 0x00) = v8 0x00 0x00 0x00 0x80 ∧
    addW (v8 0xFF 0xFF 0xFF 0xFF) (v8 0xFF 0xFF 0xFF 0xFF) = v8 0xFE 0xFF 0xFF 0xFF := by decide +kernel

/-- The SUB rows of V-ADD-1 to V-ADD-15; V-ADD-9 and V-ADD-15 are the carry corner of 90 C1. -/
theorem test_sub :
    subW (v8 0x00 0x00 0x00 0x00) (v8 0x01 0x00 0x00 0x00) = v8 0xFF 0xFF 0xFF 0xFF ∧
    subW (v8 0x00 0x01 0x00 0x00) (v8 0x01 0x00 0x00 0x00) = v8 0xFF 0x00 0x00 0x00 ∧
    subW (v8 0x00 0x00 0x01 0x00) (v8 0x01 0x00 0x00 0x00) = v8 0xFF 0xFF 0x00 0x00 ∧
    subW (v8 0x05 0x00 0x00 0x00) (v8 0x07 0x00 0x00 0x00) = v8 0xFE 0xFF 0xFF 0xFF ∧
    subW (v8 0x78 0x56 0x34 0x12) (v8 0x78 0x56 0x34 0x12) = v8 0x00 0x00 0x00 0x00 ∧
    subW (v8 0x00 0x00 0x00 0x80) (v8 0x00 0x00 0x00 0x80) = v8 0x00 0x00 0x00 0x00 ∧
    subW (v8 0x00 0x00 0x00 0x00) (v8 0x00 0x00 0x00 0x80) = v8 0x00 0x00 0x00 0x80 := by decide +kernel

/-- R112's examples, and N = 16. -/
theorem test_neg :
    negW (v8 1 0 0 0) = v8 0xFF 0xFF 0xFF 0xFF ∧ negW (v8 0 0 0 0) = v8 0 0 0 0 ∧
    negW (v8 0 0 0 0x80) = v8 0 0 0 0x80 ∧ negW (v8 0x00 0x01 0 0) = v8 0x00 0xFF 0xFF 0xFF ∧
    subW (v16 0x0001 0xFFFF 0 0) (v16 0xFFFF 0xFFFF 0 0) = v16 0x0002 0xFFFF 0xFFFF 0xFFFF := by decide +kernel

/-! ### Byte images and masks (95 section 3.11) -/

/-- V-MEM-4 and V-MEM-5. -/
theorem test_leBytes :
    leBytes (v8 0x34 0x12 0x00 0x80) = [0x34, 0x12, 0x00, 0x80] ∧
    leBytes (v16 0x1234 0xABCD 0x00FF 0x8000) =
      [0x34, 0x12, 0xCD, 0xAB, 0xFF, 0x00, 0x00, 0x80] := by decide

/-- V-MEM-6. -/
theorem test_rateBytes :
    rateBytes (v16 0x1234 0xABCD 0x00FF 0x8000) 20 = [0x34, 0x12, 0x0D] := by decide

/-- V-MEM-7, and DOMBIT. -/
theorem test_mask :
    [1, 8, 12, 31, 32].map (mask 32) =
      [v8 0x01 0 0 0, v8 0xFF 0 0 0, v8 0xFF 0x0F 0 0, v8 0xFF 0xFF 0xFF 0x7F,
       v8 0xFF 0xFF 0xFF 0xFF] ∧ domBit 32 = v8 0 0 0 0x80 := by decide

/-- V-MEM-1: one limb of a register replaced, the others kept. -/
theorem test_setLimb : setLimb (v8 0x34 0x12 0x00 0x00) 3 0x80 = v8 0x34 0x12 0x00 0x80 := by decide

/-- V-MEM-3: limb address 63 is limb 3 of x15; and 5 is limb 1 of x1 (R53). -/
theorem test_limb_address :
    addrReg 63 = 15 ∧ addrLimb 63 = 3 ∧ addrReg 5 = 1 ∧ addrLimb 5 = 1 := by decide

/-! ### The SPONGE engine's values, with the spec's test permutations (95 section 1) -/

/-- TP1. -/
def tp1 (v : Mws 8) : Mws 8 := rotlW v 1

/-- TP2, for W = 32. -/
def tp2 (v : Mws 8) : Mws 8 := rotlW (addW v 0x9E3779B9) 5

/-- The two fixtures' own examples. -/
theorem test_fixtures :
    tp1 (v8 0x58 0xB1 0xC6 0xD7) = v8 0xB1 0x62 0x8D 0xAF ∧
    tp2 (v8 0 0 0 0xB0) = v8 0x29 0x37 0xEF 0xC6 := by decide +kernel

/-- V-SYS-3: the first draw is limb 0. -/
theorem test_sampleW :
    sampleW (fun k => BitVec.ofNat 8 (k + 1)) 0 = v8 0x01 0x02 0x03 0x04 := by decide +kernel

/-- V-DUP-2 and V-DUP-6: the value DUP.RESET permutes, for α = 4 and α = 36. -/
theorem test_dup_reset_input :
    dupResetInput (v8 0x15 0 0 0) (v8 0 0x6B 0x7C 0x8D) 4 = v8 0x58 0xB1 0xC6 0xD7 ∧
    dupResetInput (v8 0xA1 0 0 0) (v8 0 0x6B 0x7C 0x8D) 36 = v8 0x18 0xBA 0xC6 0xD7 := by decide +kernel

/-- V-DUP-3 (f = 1) and V-DUP-4 (f = 0, the input's bit 31 reaches the capacity). -/
theorem test_duplex_input :
    duplexInput (v8 0xB1 0x62 0x8D 0xAF) (v8 0xFF 0x0F 0 0) (v8 0x34 0x12 0 0) true =
      v8 0x34 0x72 0x8D 0xAF ∧
    duplexInput (v8 0x69 0xE4 0x1A 0x5F) (v8 0xFF 0x0F 0 0) (v8 0xFF 0x0F 0 0x80) false =
      v8 0x96 0xEB 0x1A 0xDF := by decide +kernel

/-- V-ASK-2: the five events and the value, TP2 and bit0. -/
theorem test_cipherInit_bit0 :
    cipherInit tp2 .bit0 4 (v8 0x0F 0 0 0) (v8 0x2B 0 0 0) (v8 0x05 0 0 0) =
      (v8 0x15 0xC3 0xC8 0x6F,
       [(v8 0x00 0x00 0x00 0xB0, v8 0x29 0x37 0xEF 0xC6), (v8 0x28 0x37 0xEF 0xC6, v8 0x2C 0x1C 0xD6 0xA4),
        (v8 0x2C 0x1C 0xD6 0xA4, v8 0xA8 0xBC 0xB2 0x61), (v8 0xA9 0xBC 0xB2 0x61, v8 0x5F 0xCC 0x46 0xFD),
        (v8 0x5F 0xCC 0x46 0xFD, v8 0x13 0xC3 0xC8 0x6F)]) := by decide +kernel

/-- V-ASK-7 (TP2) and V-ASK-8 (TP1): the other injection point. -/
theorem test_cipherInit_bitI :
    (cipherInit tp2 .bitI 4 (v8 0x0F 0 0 0) (v8 0x2B 0 0 0) (v8 0x05 0 0 0)).1 =
      v8 0x15 0xCF 0xC8 0x6F ∧
    (cipherInit tp1 .bitI 4 (v8 0x0F 0 0 0) (v8 0x2B 0 0 0) (v8 0x05 0 0 0)).1 = v8 0x15 0 0 0 := by decide +kernel

/-- V-DSS-1, V-DSS-2 and V-DSS-7 (r = W: the domain bit lands inside the rate). -/
theorem test_dss :
    upBranch (v8 0x15 0xC3 0xC8 0x6F) = v8 0x15 0xC3 0xC8 0x6F ∧
    downBranch (v8 0x15 0xC3 0xC8 0x6F) = v8 0x15 0xC3 0xC8 0xEF ∧
    dssShared (v8 0xC1 0x99 0x07 0xC0) (v8 0xD1 0x99 0x07 0xC0) (v8 0xFF 0x0F 0 0) =
      v8 0xC1 0x09 0x00 0x00 ∧
    upBranch (dssShared (v8 0xC1 0x99 0x07 0xC0) (v8 0xD1 0x99 0x07 0xC0) (v8 0xFF 0xFF 0xFF 0xFF)) =
      v8 0xC1 0x99 0x07 0x40 := by decide +kernel

/-- V-PRG-2, first refresh, and V-PRG-3: the rounds after the first permutation. -/
theorem test_prg :
    prgRefreshInput (v8 0x00 0xA0 0xBE 0xEF) (v8 0xAB 0xCD 0 0) (v8 0x55 0x06 0 0) (v8 0xFF 0x0F 0 0) =
      v8 0xFE 0xAB 0xBE 0xEF ∧
    prgTruncate tp1 (v8 0xFF 0x0F 0 0) 2 (v8 0x96 0xDC 0xEA 0xFB) =
      (v8 0x01 0x40 0xAB 0xEF,
       [(v8 0x00 0xD0 0xEA 0xFB, v8 0x01 0xA0 0xD5 0xF7),
        (v8 0x00 0xA0 0xD5 0xF7, v8 0x01 0x40 0xAB 0xEF)]) := by decide +kernel

/-! ### Commands on states of the machine -/

/-- A state with an instance in it: every general register 1, `r = k = u = t = 1`, `s = 2`, ALPHA 0, KEY 1,
ST 0 and DN the domain bit. -/
def busy (m : Mode) (p : Phase) : State :=
  { State.reset with
    x := Vector.replicate 16 1, cfg := ⟨1, 1, 1, 0, 1, 2⟩, mode := m, phase := p
    par := ⟨1, 1, 1, 0, 1, 2⟩, rmask := mask Config.W 1, kmask := mask Config.W 1
    dn := domBit Config.W, key := 1 }

/-- The state with the largest parameters the checks admit. -/
def full : State :=
  { busy .none .uninit with
    cfg := ⟨BitVec.ofNat 16 Config.W, BitVec.ofNat 16 Config.W, BitVec.ofNat 16 Config.UMAX, 65535,
      65535, BitVec.ofNat 16 Config.SMAX⟩ }

@[simp] theorem busy_getX (m : Mode) (p : Phase) (r : Reg) : (busy m p).getX r = 1 := by
  simp [busy, State.getX, Vector.get]

@[simp] theorem reset_getX (r : Reg) : State.reset.getX r = 0 := by
  simp [State.reset, State.getX, Vector.get]

theorem word_one_ne_zero : (1 : Word) ≠ 0 := by
  intro h
  have h1 := congrArg BitVec.toNat h
  have h2 : 1 < 2 ^ (4 * Config.N) :=
    Nat.one_lt_two_pow (by have := Config.eight_le_N; omega)
  simp [Nat.mod_eq_of_lt h2] at h1

/-- The response with which a command ends. -/
def answer (i : Instr) (s : State) : Response := (issue i s).err

/-- V-SYS-7 and V-SYS-8: the STATUS word. -/
theorem test_status_word :
    { busy .ask .keyed with err := .notInitialized }.statusWord = 0x0A06 ∧
    { busy .dss .initialized with eqFlag := true }.statusWord = 0x1310 ∧
    State.reset.statusWord = 0 := by decide

/-- V-SYS-10: no value is refused at write time. -/
theorem test_csrw : exec (.csrw 3 65535) State.reset =
    .next { State.reset with
      cfg := ⟨0, 0, 0, 65535, 0, 0⟩, log := [.response .ok] } := rfl

/-- R126, R127: what is no legal CSR number is refused. -/
theorem test_csr_illegal :
    answer (.csrw 6 1) State.reset = .illegalCommand ∧ answer (.csrw 8 0) State.reset = .illegalCommand ∧
    answer (.csrr 0 6) State.reset = .illegalCommand ∧ answer (.csrr 0 12) State.reset = .illegalCommand :=
  ⟨rfl, rfl, rfl, rfl⟩

/-- V-ERR-1: SETUP.DUP on the reset state, and the other three. -/
theorem test_setup_on_reset :
    answer .setupDup State.reset = .paramInvalid ∧ answer .setupAsk State.reset = .paramInvalid ∧
    answer .setupDss State.reset = .paramInvalid ∧ answer .setupPrg State.reset = .paramInvalid :=
  ⟨rfl, rfl, rfl, rfl⟩

/-- V-ERR-11: session commands in MODE NONE. -/
theorem test_not_setup :
    [Instr.dupReset 0, .dupDuplex 0 0 true, .askRekey 0, .askInit 0, .askNext 0, .dssRekey 0, .dssInit 0,
      .dssNext 0, .prgRefresh 0, .prgNext 0].map (fun i => answer i State.reset) =
      List.replicate 10 .notSetup := rfl

/-- V-ERR-12: the other cipher's command. -/
theorem test_not_setup_other_mode :
    exec (.dssNext 6) (busy .ask .initialized) =
      .next { busy .ask .initialized with err := .notSetup, log := [.response .notSetup] } := rfl

/-- V-ERR-13, V-ERR-15. -/
theorem test_sequencing :
    answer (.askInit 2) (busy .ask .uninit) = .notKeyed ∧
    answer (.dssInit 2) (busy .dss .uninit) = .notKeyed ∧
    answer (.askNext 3) (busy .ask .keyed) = .notInitialized ∧
    answer (.dssNext 3) (busy .dss .keyed) = .notInitialized := ⟨rfl, rfl, rfl, rfl⟩

/-- V-ERR-14: the state check comes before the operand check. -/
theorem test_state_check_first :
    answer (.askInit 0) { State.reset with mode := .ask } = .notKeyed := rfl

/-- V-ERR-16 and V-ERR-17: a zero key, a zero nonce. -/
theorem test_zero_operand :
    answer (.askRekey 0) { State.reset with mode := .ask, phase := .initialized } = .invalidDomainValue ∧
    answer (.dssInit 0) { State.reset with mode := .dss, phase := .keyed } = .invalidDomainValue := by
  constructor <;>
    simp [answer, issue, exec, execAskRekey, execDssInit, State.raise, State.getX, State.reset,
      Vector.get, eqW]

/-- R162: the expansion of two registers in order, the refusal of none, and the stop at the first error. -/
theorem test_refreshN :
    refreshN [3, 1] = .ok [.prgRefresh 3, .prgRefresh 1] ∧ refreshN [] = .error .emptyList ∧
    refreshAll [3, 1] State.reset =
      .ok { State.reset with err := .notSetup, log := [.response .notSetup] } := ⟨rfl, rfl, rfl⟩

/-- R104: 65535 is W or more on every instance. -/
theorem test_amount_out_of_range (rd ra : Reg) (s : State) :
    exec (.shl rd ra 65535) s = .next (s.raise .operandRange) := by
  have := Config.W_le
  exact congrArg _ (shiftCommand_of_ge _ _ _ _ (by simp; omega))

/-- R22: the command placed by `withFetchWord` is the one the next step runs. -/
theorem test_step_runs_placed_command :
    step (State.reset.withFetchWord 32 0x31080000) = exec (.csrr 0 8) State.reset ∧
    step (State.reset.withFetchWord 32 0x00000000) = .next (State.reset.raise .illegalCommand) :=
  ⟨rfl, rfl⟩

/-- V-MEM-1's write: limb 3 of x0. -/
theorem test_data_write :
    step { State.reset with inbox := [.write 3 0x80] } =
      .next (State.reset.setX 0 (setLimb 0 3 0x80)) := rfl

/-- R191: the reset input clears everything. -/
theorem test_reset_input :
    step { busy .dss .initialized with inbox := [.reset] } = .next State.reset := rfl


/-! ### For each obligation with hypotheses, something that meets them -/

theorem witness_CmpeqAloneSetsEq : ∃ t, exec (.not 0 0) (busy .none .uninit) = .next t ∧
    ∀ ra rb, Instr.not 0 0 ≠ .cmpeq ra rb := ⟨_, rfl, by simp⟩

/-- 0 and 31 are in range on every instance, and so is W − 1. -/
theorem witness_ShlMultipliesByPowerOfTwo :
    (0#16).toNat < Config.W ∧ (31#16).toNat < Config.W ∧
    (BitVec.ofNat 16 (Config.W - 1)).toNat < Config.W := by
  have := Config.thirtyTwo_le_W
  have := Config.W_le
  simp only [BitVec.toNat_ofNat]
  omega

theorem witness_ShrDividesByPowerOfTwo : (1#16).toNat < Config.W := by
  have := Config.thirtyTwo_le_W
  simp only [BitVec.toNat_ofNat]
  omega

/-- The bit index 31 is one the conclusion speaks of. -/
theorem witness_RotlMovesEveryBitUp : (31#16).toNat < Config.W ∧ 31 < Config.W := by
  have := Config.thirtyTwo_le_W
  simp only [BitVec.toNat_ofNat]
  omega

theorem witness_RotrMovesEveryBitDown : (0#16).toNat < Config.W ∧ 0 < Config.W := by
  have := Config.thirtyTwo_le_W
  simp only [BitVec.toNat_ofNat]
  omega

theorem witness_CsrwWritesConfigurationOnly :
    5 < (6 : CsrNumber).val ∧ 5 < (15 : CsrNumber).val := by decide

/-- The two clauses do not meet: the assigned numbers' ends 0, 5, 8 and 11, and the others' 6, 7, 12, 15. -/
theorem witness_CsrrReadsEveryAssignedCsr (s : State) :
    (∀ n ∈ ([0, 5, 8, 11] : List CsrNumber), ∃ v : Nat, (n.val, v) ∈ [(0, s.cfg.r.toNat),
      (1, s.cfg.k.toNat), (2, s.cfg.u.toNat), (3, s.cfg.alpha.toNat), (4, s.cfg.t.toNat),
      (5, s.cfg.s.toNat), (8, s.statusWord.toNat), (9, Config.N), (10, Config.UMAX),
      (11, Config.SMAX)] ∧ ¬(n.val = 6 ∨ n.val = 7 ∨ 12 ≤ n.val)) ∧
    (∀ n ∈ ([6, 7, 12, 15] : List CsrNumber), n.val = 6 ∨ n.val = 7 ∨ 12 ≤ n.val) := by
  simp

/-- The lower ends of the ranges in `busy`, the upper ends in `full`. -/
theorem witness_SetupDupBuildsTheInstance : ∀ s ∈ [busy .none .uninit, full],
    0 < s.cfg.r.toNat ∧ s.cfg.r.toNat ≤ Config.W ∧ 0 < s.cfg.k.toNat ∧ s.cfg.k.toNat ≤ Config.W ∧
    0 < s.cfg.u.toNat ∧ s.cfg.u.toNat ≤ Config.UMAX := by
  have := Config.thirtyTwo_le_W
  have := Config.W_le
  have := Config.UMAX_bounds
  simp only [List.mem_cons, List.not_mem_nil, or_false, forall_eq_or_imp, forall_eq, full,
    BitVec.toNat_ofNat]
  refine ⟨⟨Nat.one_pos, ?_, Nat.one_pos, ?_, Nat.one_pos, ?_⟩, by omega⟩
  · change 1 ≤ Config.W; omega
  · change 1 ≤ Config.W; omega
  · change 1 ≤ Config.UMAX; omega

theorem witness_SetupAskAndDssBuildTheInstance : ∀ s ∈ [busy .none .uninit, full],
    (0 < s.cfg.r.toNat ∧ s.cfg.r.toNat ≤ Config.W ∧ 0 < s.cfg.k.toNat ∧ s.cfg.k.toNat ≤ Config.W) ∧
    ∀ im ∈ [(Instr.setupAsk, Mode.ask), (Instr.setupDss, Mode.dss)], im.1.isSetup = true := by
  intro s hs
  obtain ⟨h1, h2, h3, h4, -⟩ := witness_SetupDupBuildsTheInstance s hs
  exact ⟨⟨h1, h2, h3, h4⟩, by decide⟩

/-- With slots on both sides of the seed count: seed 0 is one of `busy`'s two. -/
theorem witness_SetupPrgBuildsTheInstance : ∀ s ∈ [busy .none .uninit, full],
    0 < s.cfg.r.toNat ∧ s.cfg.r.toNat ≤ Config.W ∧ 0 < s.cfg.t.toNat ∧
    1 < s.cfg.s.toNat ∧ s.cfg.s.toNat ≤ Config.SMAX := by
  have := Config.thirtyTwo_le_W
  have := Config.W_le
  have := Config.SMAX_bounds
  simp only [List.mem_cons, List.not_mem_nil, or_false, forall_eq_or_imp, forall_eq, full,
    BitVec.toNat_ofNat]
  refine ⟨⟨Nat.one_pos, ?_, Nat.one_pos, Nat.one_lt_two, ?_⟩, by omega, by omega, by decide, by omega,
    by omega⟩
  · change 1 ≤ Config.W; omega
  · change 2 ≤ Config.SMAX; omega

/-- The parameters of `busy` pass SETUP.ASK's checks. -/
theorem busy_valid (m : Mode) (p : Phase) :
    (busy m p).rateInvalid = false ∧ (busy m p).keyWidthInvalid = false := by
  have := Config.thirtyTwo_le_W
  have h : ¬(1 = 0 ∨ Config.W < 1) := by omega
  exact ⟨decide_eq_false h, decide_eq_false h⟩

/-- SETUP.ASK over a Duplex and over a running DSS instance. -/
theorem witness_SetupForgetsThePreviousInstance :
    Instr.setupAsk.isSetup = true ∧ (busy .dup .uninit).cfg = (busy .dss .initialized).cfg ∧
    (busy .dup .uninit).drawn = (busy .dss .initialized).drawn ∧
    ∀ m p, ∃ t, exec .setupAsk (busy m p) = .next t ∧ t.err = .ok :=
  ⟨rfl, rfl, rfl, fun m p => ⟨_, rfl, by
    simp [(busy_valid m p).1, (busy_valid m p).2, State.complete, State.respond]⟩⟩

theorem witness_DupResetReseedsFromKeyAndIv : (busy .dup .uninit).mode = .dup := rfl

theorem witness_DuplexOutputsThenAbsorbs : (busy .dup .uninit).mode = .dup := rfl

theorem witness_RekeyStoresKeyAndDropsSession :
    (busy .ask .uninit).getX 3 ≠ 0 ∧ (busy .ask .uninit).mode = .ask ∧
    (busy .dss .initialized).getX 3 ≠ 0 ∧ (busy .dss .initialized).mode = .dss := by
  simp only [busy_getX]
  exact ⟨word_one_ne_zero, rfl, word_one_ne_zero, rfl⟩

/-- Both ciphers, from KEYED and from INITIALIZED. -/
theorem witness_InitStartsTheSession :
    ∀ m ∈ [Mode.ask, .dss], ∀ p ∈ [Phase.keyed, .initialized],
      (busy m p).mode = m ∧ (busy m p).phase ≠ .uninit ∧ (busy m p).getX 2 ≠ 0 := by
  intro m _ p hp
  refine ⟨rfl, ?_, by rw [busy_getX]; exact word_one_ne_zero⟩
  rintro h
  rw [show p = .uninit from h] at hp
  exact absurd hp (by decide)

/-- V-ASK-2's call list has the entries the clauses speak of; k = W is the other end of the range. -/
theorem witness_CipherInitAbsorbsKeyThenNonceBits :
    mask (4 * 8) 4 = v8 0x0F 0 0 0 ∧ 0 < 4 ∧ 4 ≤ 4 * 8 ∧ 4 * 8 ≤ 4 * 8 ∧
    ∃ v calls, (v, calls) = cipherInit tp2 .bit0 4 (mask (4 * 8) 4) (v8 0x2B 0 0 0) (v8 0x05 0 0 0) ∧
      (calls[0]?).isSome = true ∧ (calls[1]?).isSome = true ∧ (calls[3]?).isSome = true ∧
      (calls[4]?).isSome = true ∧ (calls[5]?).isSome = false :=
  ⟨by decide, by decide, by decide, by decide, _, _, rfl, by decide +kernel⟩

theorem witness_AskNextSqueezesAfterPermuting :
    (busy .ask .initialized).mode = .ask ∧ (busy .ask .initialized).phase = .initialized := ⟨rfl, rfl⟩

theorem witness_DssNextMixesTheBranches :
    (busy .dss .initialized).mode = .dss ∧ (busy .dss .initialized).phase = .initialized ∧
    0 < Config.W - 1 := by
  have := Config.thirtyTwo_le_W
  exact ⟨rfl, rfl, by omega⟩

/-- REKEY in mode ASK, INIT in mode DSS and the two NEXTs succeed somewhere, and a NEXT fails somewhere. -/
theorem witness_CipherPhaseTransitions :
    (∃ t, exec (Cipher.ask.rekey 1) (busy .ask .uninit) = .next t ∧ t.err = .ok) ∧
    (∃ t, exec (Cipher.dss.init 1) (busy .dss .keyed) = .next t ∧ t.err = .ok) ∧
    (∃ t, exec (Cipher.ask.next 1) (busy .ask .initialized) = .next t ∧ t.err = .ok) ∧
    (∃ t, exec (Cipher.dss.next 1) (busy .dss .initialized) = .next t ∧ t.err = .ok) ∧
    (∃ t, exec (Cipher.dss.next 1) (busy .dss .keyed) = .next t ∧ t.err ≠ .ok) ∧
    ∀ c : Cipher, (busy c.mode .uninit).mode = c.mode ∧ (c.rekey 1).isSetup = false ∧
      Instr.setupAsk.isSetup = true := by
  have h : eqW (1 : Word) 0 = false := (eqW_eq_false_iff _ _).mpr word_one_ne_zero
  refine ⟨⟨_, rfl, ?_⟩, ⟨_, rfl, ?_⟩, ⟨_, rfl, rfl⟩, ⟨_, rfl, rfl⟩, ⟨_, rfl, by decide⟩, ?_⟩
  · simp only [busy_getX, h]
    rfl
  · simp only [busy_getX, h]
    rfl
  · intro c
    cases c <;> exact ⟨rfl, rfl, rfl⟩

theorem witness_NextAfterRekeyIsNotInitialized (c : Cipher) :
    (busy c.mode .initialized).mode = c.mode ∧ (busy c.mode .initialized).getX 1 ≠ 0 := by
  rw [busy_getX]
  exact ⟨rfl, word_one_ne_zero⟩

theorem witness_EncryptIsAnInvolution (c : Cipher) :
    (busy c.mode .uninit).mode = c.mode ∧ (3 : Reg) ≠ 1 ∧ (3 : Reg) ≠ 2 ∧
    (busy c.mode .uninit).getX 1 ≠ 0 ∧ (busy c.mode .uninit).getX 2 ≠ 0 := by
  simp only [busy_getX]
  exact ⟨rfl, by decide, by decide, word_one_ne_zero, word_one_ne_zero⟩

theorem witness_RefreshAbsorbsWithTheNextSeed :
    (busy .prg .uninit).mode = .prg ∧ 0 < (busy .prg .uninit).par.s.toNat := ⟨rfl, by decide⟩

/-- A list of two registers on a PRNG, and one on an engine that holds none. -/
theorem witness_RefreshNAbsorbsInListOrder :
    ([1, 2] : List Reg) ≠ [] ∧ (busy .prg .uninit).mode = .prg ∧
    (busy .prg .uninit).j.toNat < (busy .prg .uninit).par.s.toNat ∧
    (busy .dup .uninit).mode ≠ .prg :=
  ⟨by decide, rfl, Nat.two_pos, by decide⟩

theorem witness_PrgNextSqueezesThenTruncates :
    (busy .prg .uninit).mode = .prg ∧ 0 < (busy .prg .uninit).par.t.toNat := ⟨rfl, by decide⟩

/-- A PRNG instance with two rounds per NEXT. -/
def twoRounds : State := { busy .prg .uninit with par := ⟨1, 0, 0, 0, 2, 2⟩ }

/-- Two instances that differ in a register and in J. -/
theorem witness_PrgNextForgetsTheRevealedRate :
    ∃ s₁ s₂ t₁ t₂ : State, s₁ ≠ s₂ ∧ s₁.mode = .prg ∧ s₂.mode = .prg ∧ s₁.par = s₂.par ∧
      s₁.rmask = s₂.rmask ∧ 2 ≤ s₁.par.t.toNat ∧
      Config.P s₁.st &&& ~~~s₁.rmask = Config.P s₂.st &&& ~~~s₂.rmask ∧
      exec (.prgNext 2) s₁ = .next t₁ ∧ exec (.prgNext 2) s₂ = .next t₂ := by
  refine ⟨twoRounds, { twoRounds with j := 1 }, _, _, ?_, rfl, rfl, rfl, rfl, by decide, rfl, rfl, rfl⟩
  intro h
  exact absurd (congrArg State.j h) (by decide)

/-- Two instances whose sources are at different places, and two commands. -/
theorem witness_PrgOutputsAreDetermined :
    (∀ i ∈ [Instr.prgRefresh 1, .prgNext 2], (∃ r, i = .prgRefresh r) ∨ ∃ r, i = .prgNext r) ∧
    (busy .prg .uninit).mode = .prg ∧
    SameEngine (busy .prg .uninit) { busy .prg .uninit with drawn := 7 } ∧
    (busy .prg .uninit).x = { busy .prg .uninit with drawn := 7 }.x :=
  ⟨by simp, rfl, ⟨rfl, rfl, rfl, rfl, rfl, rfl, rfl, rfl, rfl, rfl, rfl⟩, rfl⟩

theorem witness_FailingCommandChangesOnlyErr :
    (∃ t, exec (.askNext 3) (busy .ask .keyed) = .next t ∧ t.err ≠ .ok) ∧
    { State.reset with inbox := [.command 0] }.inbox = .command 0 :: [] ∧
    ∃ t, step { State.reset with inbox := [.command 0] } = .next t ∧ t.err ≠ .ok :=
  ⟨⟨_, rfl, by decide⟩, rfl, _, rfl, by decide⟩

/-- A word no row covers, a CSRW of CSR 6, a CSRR of CSR 12 and a word that is none of these. -/
theorem witness_IllegalCommandExactly :
    { State.reset with inbox := [.command 0] }.inbox = .command 0 :: [] ∧
    (∀ row ∈ opcodeTable, (0 : CommandWord) &&& row.mask ≠ row.pattern) ∧
    (encode (.csrw 6 7) = 0x30600007 ∧ 5 < (6 : CsrNumber).val) ∧
    (encode (.csrr 1 12) = 0x311C0000 ∧ 12 ≤ (12 : CsrNumber).val) ∧
    wordWellFormed (encode (.rand 1)) = true := by decide

theorem witness_DrawsAreExactlyThoseListed :
    ∃ t, exec (.rand 1) State.reset = .next t ∧ t.err = .ok ∧ (Instr.rand 1).draws State.reset = 4 :=
  ⟨_, rfl, rfl, rfl⟩

/-- The states of the helper meet the engine's invariants: both ciphers in all phases, a Duplex, a PRNG. -/
theorem busy_inv (m : Mode) (p : Phase) (h : p ≠ .uninit → m = .ask ∨ m = .dss) : (busy m p).Inv := by
  have hW := Config.thirtyTwo_le_W
  have hU := Config.UMAX_bounds
  have hS := Config.SMAX_bounds
  constructor
  · intro _
    exact ⟨Nat.one_pos, (by omega : 1 ≤ Config.W), rfl⟩
  · intro _
    exact ⟨Nat.one_pos, (by omega : 1 ≤ Config.W), rfl⟩
  · intro _
    refine ⟨Nat.le_refl 1, hU.1, ?_⟩
    intro i _
    by_cases hi : i < Config.UMAX <;> simp [State.keyAt, busy, State.reset, hi]
  · intro _
    refine ⟨Nat.le_refl 1, Nat.le_refl 2, hS.1, Nat.two_pos, ?_⟩
    intro i _
    by_cases hi : i < Config.SMAX <;> simp [State.seedAt, busy, State.reset, hi]
  · exact h
  · intro _
    exact word_one_ne_zero
  · intro _ _
    refine ⟨by simp [busy, State.reset], ?_, ?_⟩
    · have h1 : Config.W - 1 < Config.W := by omega
      exact (getLsbD_domBit _ _).trans (by rw [decide_eq_true h1]; simp)
    · intro b hb
      have h1 : ¬Config.W - 1 = b := by omega
      refine Eq.trans ?_ (getLsbD_domBit _ _).symm
      rw [decide_eq_false h1]
      simp [busy, State.reset]

/-- A running DSS session, a Duplex instance, a PRNG. -/
theorem witness_PermutationCallsAreExactlyThoseListed :
    (busy .dss .initialized).Inv ∧
    ∃ t, exec (.dssNext 3) (busy .dss .initialized) = .next t ∧ t.err = .ok :=
  ⟨busy_inv _ _ (by decide), _, rfl, rfl⟩

/-- The reset input and a SETUP change MODE. -/
theorem witness_OnlySetupAndResetWriteMode :
    (∃ t, step { busy .dup .uninit with inbox := [.reset] } = .next t ∧ t.mode ≠ .dup) ∧
    (∃ t, step { busy .dup .uninit with inbox := [.command 0x50000000] } = .next t ∧ t.mode ≠ .dup) := by
  refine ⟨⟨_, rfl, by decide⟩, ⟨_, rfl, ?_⟩⟩
  have h1 : (busy .dup .uninit).rateInvalid = false := (busy_valid _ _).1
  have h2 : (busy .dup .uninit).keyWidthInvalid = false := (busy_valid _ _).2
  have e1 : { busy .dup .uninit with inbox := [] }.rateInvalid = false := h1
  have e2 : { busy .dup .uninit with inbox := [] }.keyWidthInvalid = false := h2
  simp only [e1, e2]
  decide

/-- Two running sessions with different keys and the same visible state: an output command and another. -/
theorem witness_EngineIsInvisibleButForOutputs :
    SameVisible (busy .ask .initialized) { busy .ask .initialized with key := 0 } ∧
    (busy .ask .initialized) ≠ { busy .ask .initialized with key := 0 } ∧
    (∃ t₁ t₂, exec (.csrr 1 8) (busy .ask .initialized) = .next t₁ ∧
      exec (.csrr 1 8) { busy .ask .initialized with key := 0 } = .next t₂) ∧
    (Instr.csrr 1 8).outputReg = none ∧ (Instr.askNext 2).outputReg = some 2 :=
  ⟨⟨rfl, rfl, rfl, rfl, rfl, rfl⟩, fun h => word_one_ne_zero (congrArg State.key h),
    ⟨_, _, rfl, rfl⟩, rfl, rfl⟩

theorem witness_OutputsCarryNoCapacityBit :
    (busy .dup .uninit).Inv ∧ (Instr.dupDuplex 2 1 true).outputReg = some 2 ∧
    ∃ t, exec (.dupDuplex 2 1 true) (busy .dup .uninit) = .next t ∧ t.err = .ok :=
  ⟨busy_inv _ _ (by decide), rfl, _, rfl, rfl⟩

/-- The first and the last address. -/
theorem witness_DataReadAnswersTheLimb :
    (0#6).toNat = 4 * (0 : Reg).val + (0 : Fin 4).val ∧
    (63#6).toNat = 4 * (15 : Reg).val + (3 : Fin 4).val ∧
    { State.reset with inbox := [.read 63] }.inbox = .read 63 :: [] := by decide

/-- The first and the last address, with an address that is written and one that is not. -/
theorem witness_DataWriteReplacesOneLimb :
    { State.reset with inbox := [.write 63 1] }.inbox = .write 63 1 :: [] ∧
    (63#6).toNat = 4 * (15 : Reg).val + (3 : Fin 4).val ∧
    (63#6).toNat ≠ 4 * (0 : Reg).val + (0 : Fin 4).val :=
  ⟨rfl, by decide, by decide⟩

theorem witness_ByteImageIsLimbByLimb : 8 % 8 = 0 ∧ 3 < 4 * 8 / 8 ∧ 7 < 8 ∧ 0 < 8 / 8 ∧ 16 % 8 = 0 := by decide

/-- r = 1, r = 20 (V-MEM-6) and r = w. -/
theorem witness_RateBytesPackTheRate :
    64 % 8 = 0 ∧ ∀ r ∈ [1, 20, 64], 0 < r ∧ r ≤ 64 ∧ r - 1 < 8 * ((r + 7) / 8) := by decide

theorem witness_ResetInputGivesResetState :
    { busy .dss .initialized with inbox := [.reset] }.inbox = .reset :: [] ∧
    0 < Config.UMAX ∧ 0 < Config.SMAX := by
  have := Config.UMAX_bounds
  have := Config.SMAX_bounds
  exact ⟨rfl, by omega, by omega⟩

/-- A word that decodes, one that does not, and nothing to do. -/
theorem witness_StepRunsTheDecodedCommand :
    decode 0x20312000 = .ok (.add 3 1 2) ∧ decode 0xFFFFFFFF = .error .unassignedOpcode ∧
    { State.reset with inbox := [.command 0x20312000] }.inbox = .command 0x20312000 :: [] ∧
    { State.reset with inbox := [.command 0xFFFFFFFF] }.inbox = .command 0xFFFFFFFF :: [] ∧
    State.reset.inbox = [] :=
  ⟨by decide, by decide, rfl, rfl, rfl⟩

/-- A command on a running DSS session. -/
theorem witness_StepKeepsTheInvariant :
    { busy .dss .initialized with inbox := [.command 0x63300000] }.Inv ∧
    ∃ t, step { busy .dss .initialized with inbox := [.command 0x63300000] } = .next t ∧ t.err = .ok := by
  obtain ⟨h1, h2, h3, h4, h5, h6, h7⟩ := busy_inv .dss .initialized (by decide)
  exact ⟨⟨h1, h2, h3, h4, h5, h6, h7⟩, _, rfl, rfl⟩

end Sys2Proof.Machine
end

/-! SUPPORT. How every command ends (spec 00_scope.md R14, R15, R171). A command is run twice, on a state
and on the same core with another host queue and another record: both runs take the same branches, have
the same port events and end with the same response. -/

namespace Sys2Proof.Machine

/-- The same core in front of another host queue and another record of port events. -/
def State.withPort (s : State) (q : List HostRequest) (l : List PortEvent) : State :=
  { s with inbox := q, log := l }

/-- Every event is a draw or a permutation call: the ports that are not the host's (R200). -/
def DrawsAndCalls (events : List PortEvent) : Prop :=
  ∀ e ∈ events, e.isDraw = true ∨ e.isCall = true

theorem drawsAndCalls_nil : DrawsAndCalls [] := by simp [DrawsAndCalls]

theorem drawsAndCalls_drawEvents (drawn count : Nat) : DrawsAndCalls (drawEvents drawn count) := by
  intro e he
  obtain ⟨i, -, rfl⟩ := List.mem_map.mp he
  exact .inl rfl

theorem drawsAndCalls_permCalls (calls : List (Word × Word)) :
    DrawsAndCalls (calls.map fun c => .permCall c.1 c.2) := by
  intro e he
  obtain ⟨c, -, rfl⟩ := List.mem_map.mp he
  exact .inr rfl

theorem DrawsAndCalls.append {a b : List PortEvent} (ha : DrawsAndCalls a) (hb : DrawsAndCalls b) :
    DrawsAndCalls (a ++ b) := fun e he => (List.mem_append.mp he).elim (ha e) (hb e)

/-- From `s` to `t`, and from `s` with the queue `q` and the record `l` to `t'`, the port events are
`events`; the queues are kept, and `t'` is otherwise `t`. -/
structure InStep (s : State) (q : List HostRequest) (l events : List PortEvent) (t t' : State) : Prop where
  inbox : t.inbox = s.inbox
  log : t.log = s.log ++ events
  other : t' = t.withPort q (l ++ events)

/-- The two runs went in step, with draws and permutation calls and then the one response that is left in
ERR (R171). -/
def EndInStep (s : State) (q : List HostRequest) (l : List PortEvent) (t t' : State) : Prop :=
  ∃ events, DrawsAndCalls events ∧ InStep s q l (events ++ [.response t.err]) t t'

section rules

variable {s t t' u u' : State} {q : List HostRequest} {l events : List PortEvent} {e : Response}

/-- Work without a port event. -/
theorem InStep.silent (hin : t.inbox = s.inbox) (hlog : t.log = s.log) (h : t' = t.withPort q l) :
    InStep s q l [] t t' :=
  ⟨hin, by simp [hlog], by simp [h]⟩

/-- The response ends both runs alike (R171). -/
theorem InStep.respond (he : DrawsAndCalls events) (h : InStep s q l events t t') :
    EndInStep s q l (t.respond e) (t'.respond e) := by
  obtain ⟨hin, hlog, rfl⟩ := h
  exact ⟨events, he, hin, by simp [hlog], by simp [State.respond, State.withPort]⟩

/-- An error writes nothing but ERR and the response (R172). -/
theorem endInStep_raise : EndInStep s q l (s.raise e) ((s.withPort q l).raise e) :=
  InStep.respond drawsAndCalls_nil (.silent rfl rfl rfl)

/-- A command without port events of its own. -/
theorem endInStep_silent (hin : t.inbox = s.inbox) (hlog : t.log = s.log) (h : t' = t.withPort q l) :
    EndInStep s q l t.complete t'.complete :=
  InStep.respond drawsAndCalls_nil (.silent hin hlog h)

/-- A command whose port events are draws. -/
theorem endInStep_draws {drawn count : Nat} (h : InStep s q l (drawEvents drawn count) t t') :
    EndInStep s q l t.complete t'.complete :=
  InStep.respond (drawsAndCalls_drawEvents drawn count) h

/-- A command whose port events are permutation calls. -/
theorem endInStep_calls {calls : List (Word × Word)}
    (h : InStep s q l (calls.map fun c => .permCall c.1 c.2) t t') :
    EndInStep s q l t.complete t'.complete :=
  InStep.respond (drawsAndCalls_permCalls calls) h

/-- A command whose port events are draws and then permutation calls. -/
theorem endInStep_draws_calls {drawn count : Nat} {calls : List (Word × Word)} (hin : t.inbox = s.inbox)
    (hlog : t.log = s.log ++ drawEvents drawn count ++ calls.map fun c => .permCall c.1 c.2)
    (h : t' = t.withPort q (l ++ drawEvents drawn count ++ calls.map fun c => .permCall c.1 c.2)) :
    EndInStep s q l t.complete t'.complete :=
  InStep.respond ((drawsAndCalls_drawEvents drawn count).append (drawsAndCalls_permCalls calls))
    ⟨hin, by simp [hlog], by simp [h]⟩

/-- Both runs take the same branch of a check. -/
theorem EndInStep.ite {c : Prop} [Decidable c] (ht : EndInStep s q l t t') (hu : EndInStep s q l u u') :
    EndInStep s q l (if c then t else u) (if c then t' else u') := by
  split
  · exact ht
  · exact hu

end rules

/-- Every command ends, and it ends in step with its run before another queue and record. Each arm names
the checks of the command in order and the kind of port events it has after them. -/
theorem exec_endInStep (i : Instr) (s : State) (q : List HostRequest) (l : List PortEvent) :
    ∃ t t', exec i s = .next t ∧ exec i (s.withPort q l) = .next t' ∧ EndInStep s q l t t' := by
  cases i with
  | not | and | or | xor | cmpeq | add | sub =>
    exact ⟨_, _, rfl, rfl, endInStep_silent rfl rfl rfl⟩
  | shl | shr | rotl | rotr =>
    exact ⟨_, _, rfl, rfl, .ite endInStep_raise (endInStep_silent rfl rfl rfl)⟩
  | rand => exact ⟨_, _, rfl, rfl, endInStep_draws ⟨rfl, rfl, rfl⟩⟩
  | perm => exact ⟨_, _, rfl, rfl, endInStep_calls ⟨rfl, rfl, rfl⟩⟩
  | csrw csr =>
    refine ⟨_, _, rfl, rfl, ?_⟩
    cases cfgReg? csr with
    | none => exact endInStep_raise
    | some c => exact endInStep_silent rfl rfl rfl
  | csrr rd csr =>
    refine ⟨_, _, rfl, rfl, ?_⟩
    cases csr? csr with
    | none => exact endInStep_raise
    | some c => exact endInStep_silent rfl rfl rfl
  | setupAsk | setupDss =>
    exact ⟨_, _, rfl, rfl, .ite endInStep_raise (endInStep_silent rfl rfl rfl)⟩
  | setupDup | setupPrg =>
    exact ⟨_, _, rfl, rfl, .ite endInStep_raise (endInStep_draws ⟨rfl, rfl, rfl⟩)⟩
  | dupReset =>
    exact ⟨_, _, rfl, rfl, .ite endInStep_raise (endInStep_draws_calls rfl rfl rfl)⟩
  | askRekey | dssRekey =>
    exact ⟨_, _, rfl, rfl, .ite endInStep_raise (.ite endInStep_raise (endInStep_silent rfl rfl rfl))⟩
  | askInit | dssInit =>
    exact ⟨_, _, rfl, rfl, .ite endInStep_raise (.ite endInStep_raise (.ite endInStep_raise
      (endInStep_calls ⟨rfl, rfl, rfl⟩)))⟩
  | askNext | dssNext =>
    exact ⟨_, _, rfl, rfl, .ite endInStep_raise (.ite endInStep_raise
      (endInStep_calls ⟨rfl, rfl, rfl⟩))⟩
  | dupDuplex | prgRefresh | prgNext =>
    exact ⟨_, _, rfl, rfl, .ite endInStep_raise (endInStep_calls ⟨rfl, rfl, rfl⟩)⟩

/-- Settles O42: the first of the two runs ends with its response, whatever the second one is. -/
theorem everyCommandEndsWithOneResponse : Obligations.EveryCommandEndsWithOneResponse := by
  intro i s
  obtain ⟨t, _, hexec, _, events, hevents, hstep⟩ := exec_endInStep i s [] []
  exact ⟨t, events, hexec, by simp [hstep.log], hstep.inbox, hevents⟩

/-- Settles O45: the first run starts with the empty queue and record, so its record is the new events. -/
theorem commandIgnoresQueueAndRecord : Obligations.CommandIgnoresQueueAndRecord := by
  intro i s q l
  obtain ⟨t, _, hexec, hexec', events, -, -, hlog, rfl⟩ := exec_endInStep i (s.withPort [] []) q l
  refine ⟨t, hexec, hexec'.trans ?_⟩
  simp [hlog, State.withPort]

end Sys2Proof.Machine

/-! SUPPORT. The engine registers (spec 10_state.md R28 to R41): which commands write them, what a step can
do to them, the invariants that every step keeps, and what of the engine the host can see. -/

namespace Sys2Proof.Machine

section engine

variable {i : Instr} {s t : State}

/-- The engine registers of `s` are its own, and so are those of any update of `s` that writes none of them,
by unfolding the update. -/
theorem SameEngine.refl (s : State) : SameEngine s s :=
  ⟨rfl, rfl, rfl, rfl, rfl, rfl, rfl, rfl, rfl, rfl, rfl⟩

/-- A check that fails raises an error, and an error writes no engine register (R172). -/
theorem SameEngine.check {c : Prop} [Decidable c] {e : Response} (h : SameEngine s t) :
    SameEngine s (if c then s.raise e else t) :=
  iteInduction (fun _ => SameEngine.refl s) fun _ => h

/-- A command that is neither a SETUP nor a session command works outside the engine (R192). -/
theorem exec_sameEngine (hexec : exec i s = .next t) (hmode : i.sessionMode = none)
    (hsetup : i.isSetup = false) : SameEngine s t := by
  cases i with
  | not | and | or | xor | cmpeq | add | sub | rand | perm =>
    cases hexec
    exact SameEngine.refl s
  | shl | shr | rotl | rotr =>
    cases hexec
    exact SameEngine.check (SameEngine.refl s)
  | csrw csr =>
    cases hexec
    cases cfgReg? csr with
    | none => exact SameEngine.refl s
    | some c => exact SameEngine.refl s
  | csrr rd csr =>
    cases hexec
    cases csr? csr with
    | none => exact SameEngine.refl s
    | some c => exact SameEngine.refl s
  | setupDup | setupAsk | setupDss | setupPrg => cases hsetup
  | dupReset | dupDuplex | askRekey | askInit | askNext | dssRekey | dssInit | dssNext
  | prgRefresh | prgNext => cases hmode

/-- What a step can do to the engine (R200): a command or the reset input writes it, everything else the
host can do leaves it as it is. -/
theorem step_engine_cases (hstep : step s = .next t) :
    SameEngine s t ∨
    (∃ w rest i, s.inbox = .command w :: rest ∧ decode w = .ok i ∧
      exec i { s with inbox := rest } = .next t) ∨
    (∃ rest, s.inbox = .reset :: rest ∧ t = { s with inbox := rest }.resetCore) := by
  cases hin : s.inbox with
  | nil =>
    cases (step_of_idle hin).symm.trans hstep
    exact .inl (SameEngine.refl s)
  | cons req rest =>
    rw [step_of_inbox hin] at hstep
    cases req with
    | command w =>
      simp only [perform, runCommand] at hstep
      cases hdec : decode w with
      | ok i => exact .inr (.inl ⟨w, rest, i, rfl, hdec, by simpa only [hdec] using hstep⟩)
      | error e =>
        simp only [hdec] at hstep
        cases hstep
        exact .inl (SameEngine.refl s)
    | write addr v =>
      cases hstep
      exact .inl (SameEngine.refl s)
    | read addr =>
      cases hstep
      exact .inl (SameEngine.refl s)
    | reset =>
      cases hstep
      exact .inr (.inr ⟨rest, rfl, rfl⟩)

/-- A command that is no successful SETUP leaves MODE as it is (R30). -/
theorem exec_mode (hexec : exec i s = .next t) :
    t.mode = s.mode ∨ i.isSetup = true ∧ t.err = .ok := by
  have check {c : Prop} [Decidable c] {e : Response} {u : State} (h : u.mode = s.mode) :
      (if c then s.raise e else u).mode = s.mode :=
    iteInduction (motive := fun u : State => u.mode = s.mode) (fun _ => rfl) fun _ => h
  cases i with
  | not | and | or | xor | cmpeq | shl | shr | rotl | rotr | add | sub
  | rand | perm | csrw | csrr =>
    exact .inl (exec_sameEngine hexec rfl rfl).1
  | setupDup | setupAsk | setupDss | setupPrg =>
    cases hexec
    split
    · exact .inl rfl
    · exact .inr ⟨rfl, rfl⟩
  | dupReset | dupDuplex | prgRefresh | prgNext =>
    cases hexec
    exact .inl (check rfl)
  | askRekey | askNext | dssRekey | dssNext =>
    cases hexec
    exact .inl (check (check rfl))
  | askInit | dssInit =>
    cases hexec
    exact .inl (check (check (check rfl)))

/-- Settles O46: a step that changes MODE is the reset or a command, and then a SETUP that succeeded. -/
theorem onlySetupAndResetWriteMode : Obligations.OnlySetupAndResetWriteMode := by
  intro s t hstep hne
  obtain hsame | ⟨w, rest, i, hin, hdec, hexec⟩ | ⟨rest, hin, rfl⟩ := step_engine_cases hstep
  · exact absurd hsame.1 hne
  · obtain ⟨hsetup, hok⟩ := (exec_mode hexec).resolve_left hne
    exact .inr ⟨w, rest, i, hin, hdec, hsetup, hok⟩
  · exact .inl ⟨rest, hin, rfl⟩

end engine

section invariant

variable {i : Instr} {s t : State}

/-- The invariant speaks of the engine registers alone. -/
theorem State.Inv.of_sameEngine (h : s.Inv) (e : SameEngine s t) : t.Inv := by
  obtain ⟨hmode, hphase, hpar, hrmask, hkmask, hst, hdn, hkey, hkeys, hseeds, hj⟩ := e
  cases s
  cases t
  subst_vars
  exact { h with }

/-- While MODE is NONE the invariant asks for PHASE = UNINIT and nothing more (R31). -/
theorem State.Inv.of_noInstance (hmode : s.mode = .none) (hphase : s.phase = .uninit) : s.Inv where
  rate h := absurd hmode h
  keyWidth h := by simp [hmode] at h
  dupKeys h := nomatch hmode.symm.trans h
  prgSeeds h := nomatch hmode.symm.trans h
  phaseMode h := absurd hphase h
  keyPresent h := absurd hphase h
  branches h := nomatch hmode.symm.trans h

/-- Settles O58: after reset MODE is NONE and PHASE is UNINIT (R40). -/
theorem resetMeetsTheInvariant : Obligations.ResetMeetsTheInvariant :=
  State.Inv.of_noInstance rfl rfl

/-- A check that fails raises an error, which keeps the invariant (R172). -/
theorem State.Inv.check (h : s.Inv) {c : Prop} [Decidable c] {e : Response} (ht : ¬c → t.Inv) :
    (if c then s.raise e else t).Inv :=
  iteInduction (fun _ => h.of_sameEngine (SameEngine.refl s)) ht

/-- The check of MODE is such a check (R177). -/
theorem State.Inv.checkMode (h : s.Inv) {m : Mode} {e : Response} (ht : s.mode = m → t.Inv) :
    (if s.mode ≠ m then s.raise e else t).Inv :=
  h.check fun hmode => ht (not_not.mp hmode)

/-- The rates that pass their check (R176). -/
theorem State.rateInvalid_eq_false_iff :
    s.rateInvalid = false ↔ 0 < s.cfg.r.toNat ∧ s.cfg.r.toNat ≤ Config.W := by
  simp only [State.rateInvalid, decide_eq_false_iff_not]
  omega

/-- The key widths that pass their check (R176). -/
theorem State.keyWidthInvalid_eq_false_iff :
    s.keyWidthInvalid = false ↔ 0 < s.cfg.k.toNat ∧ s.cfg.k.toNat ≤ Config.W := by
  simp only [State.keyWidthInvalid, decide_eq_false_iff_not]
  omega

/-- The numbers of keys that pass their check (R176). -/
theorem State.keyCountInvalid_eq_false_iff :
    s.keyCountInvalid = false ↔ 1 ≤ s.cfg.u.toNat ∧ s.cfg.u.toNat ≤ Config.UMAX := by
  simp only [State.keyCountInvalid, decide_eq_false_iff_not]
  omega

/-- The numbers of rounds that pass their check (R176). -/
theorem State.roundsInvalid_eq_false_iff : s.roundsInvalid = false ↔ 1 ≤ s.cfg.t.toNat := by
  simp only [State.roundsInvalid, decide_eq_false_iff_not]
  omega

/-- The numbers of seeds that pass their check (R176). -/
theorem State.seedCountInvalid_eq_false_iff :
    s.seedCountInvalid = false ↔ 2 ≤ s.cfg.s.toNat ∧ s.cfg.s.toNat ≤ Config.SMAX := by
  simp only [State.seedCountInvalid, decide_eq_false_iff_not]
  omega

/-- Nothing of a masked value is left outside the mask. -/
theorem and_mask_and_not_mask {w : Nat} (v m : BitVec w) : v &&& m &&& ~~~m = 0 := by
  rw [BitVec.and_assoc, BitVec.and_not_self]
  exact BitVec.and_zero

/-- SETUP.ASK and SETUP.DSS build an engine that meets the invariant (R140, R150). -/
theorem inv_setupCipher {m : Mode} (hm : m = .ask ∨ m = .dss)
    (hvalid : ¬(s.rateInvalid || s.keyWidthInvalid) = true) : (s.setupCipher m).complete.Inv := by
  simp only [Bool.not_eq_true, Bool.or_eq_false_iff, State.rateInvalid_eq_false_iff,
    State.keyWidthInvalid_eq_false_iff] at hvalid
  obtain ⟨⟨hr0, hrW⟩, hk0, hkW⟩ := hvalid
  exact {
    rate := fun _ => ⟨hr0, hrW, rfl⟩
    keyWidth := fun _ => ⟨hk0, hkW, rfl⟩
    dupKeys := fun h => by obtain rfl | rfl := hm <;> cases h
    prgSeeds := fun h => by obtain rfl | rfl := hm <;> cases h
    phaseMode := fun _ => hm
    keyPresent := fun h => absurd rfl h
    branches := fun _ h => nomatch h }

/-- SETUP.DUP keeps the invariant: the keys it samples are masked (R130). -/
theorem inv_execSetupDup (h : s.Inv) (hexec : execSetupDup s = .next t) : t.Inv := by
  cases hexec
  refine h.check fun hvalid => ?_
  simp only [Bool.not_eq_true, Bool.or_eq_false_iff, State.rateInvalid_eq_false_iff,
    State.keyWidthInvalid_eq_false_iff, State.keyCountInvalid_eq_false_iff] at hvalid
  obtain ⟨⟨⟨hr0, hrW⟩, hk0, hkW⟩, hu1, huMax⟩ := hvalid
  exact {
    rate := fun _ => ⟨hr0, hrW, rfl⟩
    keyWidth := fun _ => ⟨hk0, hkW, rfl⟩
    dupKeys := fun _ => ⟨hu1, huMax, fun i (hi : i < s.cfg.u.toNat) => by
      have hkey := getElem?_sampledKeys s (Nat.lt_of_lt_of_le hi huMax)
      simpa [State.keyAt, hkey, hi] using and_mask_and_not_mask _ _⟩
    prgSeeds := nofun
    phaseMode := fun h => absurd rfl h
    keyPresent := fun h => absurd rfl h
    branches := nofun }

/-- SETUP.PRG keeps the invariant: the seeds it samples are masked, and J = 1 < PAR.s (R160). -/
theorem inv_execSetupPrg (h : s.Inv) (hexec : execSetupPrg s = .next t) : t.Inv := by
  cases hexec
  refine h.check fun hvalid => ?_
  simp only [Bool.not_eq_true, Bool.or_eq_false_iff, State.rateInvalid_eq_false_iff,
    State.roundsInvalid_eq_false_iff, State.seedCountInvalid_eq_false_iff] at hvalid
  obtain ⟨⟨⟨hr0, hrW⟩, ht1⟩, hs2, hsMax⟩ := hvalid
  exact {
    rate := fun _ => ⟨hr0, hrW, rfl⟩
    keyWidth := nofun
    dupKeys := nofun
    prgSeeds := fun _ => ⟨ht1, hs2, hsMax, hs2, fun i (hi : i < s.cfg.s.toNat) => by
      have hseed := getElem?_sampledSeeds s (Nat.lt_of_lt_of_le hi hsMax)
      simpa [State.seedAt, hseed, hi] using and_mask_and_not_mask _ _⟩
    phaseMode := fun h => absurd rfl h
    keyPresent := fun h => absurd rfl h
    branches := nofun }

/-- The two branches of a DSS value differ in bit W-1 alone (R156). -/
theorem upBranch_downBranch_bits (v : Word) :
    (upBranch v).getLsbD (Config.W - 1) = false ∧ (downBranch v).getLsbD (Config.W - 1) = true ∧
      ∀ b < Config.W - 1, (upBranch v).getLsbD b = (downBranch v).getLsbD b := by
  have hW : Config.W - 1 < Config.W := by have := Config.thirtyTwo_le_W; omega
  refine ⟨?_, ?_, fun b hb => ?_⟩
  · simp [upBranch, getLsbD_domBit, hW]
  · simp [downBranch, getLsbD_domBit, hW]
  · have hdom : (domBit Config.W).getLsbD b = false := by
      rw [getLsbD_domBit, decide_eq_false (by omega : ¬Config.W - 1 = b), Bool.and_false]
    simp only [upBranch, downBranch, BitVec.getLsbD_and, BitVec.getLsbD_or, BitVec.getLsbD_not, hdom,
      decide_eq_true (hb.trans hW), Bool.not_false, Bool.and_true, Bool.or_false]

/-- J stays below PAR.s when it advances modulo PAR.s (R36, R161). -/
theorem seedIndex_lt (j : Nat) {m : BitVec 16} (hm : 0 < m.toNat) :
    (BitVec.ofNat 16 ((j + 1) % m.toNat)).toNat < m.toNat := by
  have hlt := Nat.mod_lt (j + 1) hm
  rwa [BitVec.toNat_ofNat, Nat.mod_eq_of_lt (hlt.trans m.isLt)]

/-- Every command keeps the invariant. For a session command in its mode only the clauses about what it
writes are new: the key, J, or the two DSS branches. -/
theorem exec_keeps_inv (h : s.Inv) (hexec : exec i s = .next t) : t.Inv := by
  cases i with
  | not | and | or | xor | cmpeq | shl | shr | rotl | rotr | add | sub
  | rand | perm | csrw | csrr =>
    exact h.of_sameEngine (exec_sameEngine hexec rfl rfl)
  | setupDup => exact inv_execSetupDup h hexec
  | setupAsk =>
    cases hexec
    exact h.check (inv_setupCipher (.inl rfl))
  | setupDss =>
    cases hexec
    exact h.check (inv_setupCipher (.inr rfl))
  | setupPrg => exact inv_execSetupPrg h hexec
  | dupReset | dupDuplex =>
    cases hexec
    refine h.checkMode fun hmode => ?_
    exact { h with branches := fun hdss => nomatch hmode.symm.trans hdss }
  | askRekey | dssRekey =>
    cases hexec
    refine h.checkMode fun hmode => h.check fun hkey => ?_
    exact { h with
      phaseMode := fun _ => by simp [hmode]
      keyPresent := fun _ => (eqW_eq_false_iff _ _).mp (Bool.not_eq_true _ ▸ hkey)
      branches := nofun }
  | askInit =>
    cases hexec
    refine h.checkMode fun hmode => h.check fun hphase => h.check fun _ => ?_
    exact { h with
      phaseMode := fun _ => .inl hmode
      keyPresent := fun _ => h.keyPresent hphase
      branches := fun hdss => nomatch hmode.symm.trans hdss }
  | dssInit =>
    cases hexec
    refine h.checkMode fun hmode => h.check fun hphase => h.check fun _ => ?_
    exact { h with
      phaseMode := fun _ => .inr hmode
      keyPresent := fun _ => h.keyPresent hphase
      branches := fun _ _ => upBranch_downBranch_bits _ }
  | askNext =>
    cases hexec
    refine h.checkMode fun hmode => h.check fun _ => ?_
    exact { h with branches := fun hdss => nomatch hmode.symm.trans hdss }
  | dssNext =>
    cases hexec
    refine h.checkMode fun _ => h.check fun _ => ?_
    exact { h with branches := fun _ _ => upBranch_downBranch_bits _ }
  | prgRefresh =>
    cases hexec
    refine h.checkMode fun hmode => ?_
    obtain ⟨ht1, hs2, hsMax, -, hmasked⟩ := h.prgSeeds hmode
    exact { h with
      prgSeeds := fun _ => ⟨ht1, hs2, hsMax, seedIndex_lt _ (by omega), hmasked⟩
      branches := fun hdss => nomatch hmode.symm.trans hdss }
  | prgNext =>
    cases hexec
    refine h.checkMode fun hmode => ?_
    obtain ⟨ht1, hs2, hsMax, -, hmasked⟩ := h.prgSeeds hmode
    exact { h with
      prgSeeds := fun _ => ⟨ht1, hs2, hsMax, hs2, hmasked⟩
      branches := fun hdss => nomatch hmode.symm.trans hdss }

/-- Settles O59: what a step can do to the engine is nothing, a command, or the reset. -/
theorem stepKeepsTheInvariant : Obligations.StepKeepsTheInvariant := by
  intro s t h hstep
  obtain hsame | ⟨w, rest, i, -, -, hexec⟩ | ⟨rest, -, rfl⟩ := step_engine_cases hstep
  · exact h.of_sameEngine hsame
  · have hrest : { s with inbox := rest }.Inv := { h with }
    exact exec_keeps_inv hrest hexec
  · exact State.Inv.of_noInstance rfl rfl

end invariant

section visibility

variable {i : Instr} {s t t' u : State} {rd : Reg} {out : Option Reg}

/-- If `t` is a success, MODE of `s` is not NONE and `x[rd]` of `t` is masked to the rate of `s`. -/
def OutputMasked (rd : Reg) (s t : State) : Prop :=
  t.err = .ok → s.mode ≠ .none ∧ ∃ v, t.getX rd = v &&& s.rmask

/-- A check that fails is no success. -/
theorem OutputMasked.check {c : Prop} [Decidable c] {e : Response} (he : e ≠ .ok)
    (hu : ¬c → OutputMasked rd s u) : OutputMasked rd s (if c then s.raise e else u) :=
  iteInduction (fun _ hok => absurd hok he) hu

/-- The end of an output command that passed the check of its mode. -/
theorem outputMasked_complete {m : Mode} {v : Word} (hmode : ¬s.mode ≠ m) (hm : m ≠ .none) :
    OutputMasked rd s (u.setX rd (v &&& s.rmask)).complete :=
  fun _ => ⟨not_not.mp hmode ▸ hm, v, u.getX_setX_self rd _⟩

/-- What an output command writes to `x[rd]` is masked to the rate (R37, R133, R144, R153, R163). -/
theorem exec_outputMasked (hexec : exec i s = .next t) (hout : i.outputReg = some rd) :
    OutputMasked rd s t := by
  cases i with
  | dupDuplex | prgNext =>
    cases hexec
    cases hout
    exact .check nofun fun hmode => outputMasked_complete hmode nofun
  | askNext | dssNext =>
    cases hexec
    cases hout
    exact .check nofun fun hmode => .check nofun fun _ => outputMasked_complete hmode nofun
  | _ => cases hout

/-- Settles O48: a masked value has no bit outside the mask, and the mask is MASK(PAR.r) (R32). -/
theorem outputsCarryNoCapacityBit : Obligations.OutputsCarryNoCapacityBit := by
  intro i s t rd h hexec hout hok b hb
  obtain ⟨hmode, v, hv⟩ := exec_outputMasked hexec hout hok
  obtain ⟨-, -, hmask⟩ := h.rate hmode
  simp [hv, hmask, getLsbD_mask, Nat.not_lt.mpr hb]

/-- `s` with the host's view of it unchanged and all that the host cannot see taken from `hidden` (R37). -/
def State.withHidden (s hidden : State) : State :=
  { hidden with
    x := s.x, eqFlag := s.eqFlag, err := s.err, cfg := s.cfg, mode := s.mode, phase := s.phase
    drawn := s.drawn }

/-- Two states that the host cannot tell apart differ in what is hidden only. -/
theorem SameVisible.eq_withHidden (h : SameVisible s t) (hdrawn : s.drawn = t.drawn) :
    t = s.withHidden t := by
  obtain ⟨hx, heq, herr, hcfg, hmode, hphase⟩ := h
  simp only [State.withHidden, ← hx, ← heq, ← herr, ← hcfg, ← hmode, ← hphase, hdrawn]

/-- A register the host can read reads alike. -/
theorem SameVisible.getX (h : SameVisible s t) (r : Reg) : t.getX r = s.getX r :=
  congrArg (·.get r) h.1

/-- The host cannot tell the results of a command with the output register `out` apart, but for that
register. -/
def SameAnswer (out : Option Reg) (t t' : State) : Prop :=
  (out = none → SameVisible t t') ∧ ∀ rd, out = some rd → SameVisibleBut rd t t'

/-- Results that agree on everything agree but for any register. -/
theorem SameAnswer.of_sameVisible (h : SameVisible t t') : SameAnswer out t t' :=
  ⟨fun _ => h, fun _ _ => ⟨fun r _ => h.getX r, h.2⟩⟩

/-- A command with an output register need agree but for that register. -/
theorem SameAnswer.of_sameVisibleBut (h : SameVisibleBut rd t t') : SameAnswer (some rd) t t' :=
  ⟨nofun, fun _ e => Option.some.inj e ▸ h⟩

/-- Only the register written last differs. -/
theorem SameVisible.setX_complete (h : SameVisible t t') (v v' : Word) :
    SameAnswer (some rd) (t.setX rd v).complete (t'.setX rd v').complete := by
  have hget := h.getX
  obtain ⟨-, heq, -, hcfg, hmode, hphase⟩ := h
  refine .of_sameVisibleBut ⟨fun r hr => ?_, heq, rfl, hcfg, hmode, hphase⟩
  rw [State.complete_getX, State.complete_getX, State.getX_setX_ne _ _ hr, State.getX_setX_ne _ _ hr,
    hget]

/-- Both runs take the same branch of a check on what the host can see. -/
theorem SameAnswer.check {c : Prop} [Decidable c] {e : Response} {hidden : State}
    (h : SameAnswer out t t') :
    SameAnswer out (if c then s.raise e else t) (if c then (s.withHidden hidden).raise e else t') := by
  split
  · exact .of_sameVisible ⟨rfl, rfl, rfl, rfl, rfl, rfl⟩
  · exact h

/-- Every check of a command is on what the host can see, and so is everything it writes there but an
output (R37). -/
theorem exec_sameAnswer (i : Instr) (s hidden : State) :
    ∃ t t', exec i s = .next t ∧ exec i (s.withHidden hidden) = .next t' ∧
      SameAnswer i.outputReg t t' := by
  cases i with
  | not | and | or | xor | cmpeq | add | sub | rand | perm =>
    exact ⟨_, _, rfl, rfl, .of_sameVisible ⟨rfl, rfl, rfl, rfl, rfl, rfl⟩⟩
  | shl | shr | rotl | rotr | setupDup | setupAsk | setupDss | setupPrg | dupReset | prgRefresh =>
    exact ⟨_, _, rfl, rfl, .check (.of_sameVisible ⟨rfl, rfl, rfl, rfl, rfl, rfl⟩)⟩
  | csrw csr =>
    refine ⟨_, _, rfl, rfl, ?_⟩
    cases cfgReg? csr with
    | none => exact .of_sameVisible ⟨rfl, rfl, rfl, rfl, rfl, rfl⟩
    | some c => exact .of_sameVisible ⟨rfl, rfl, rfl, rfl, rfl, rfl⟩
  | csrr rd csr =>
    refine ⟨_, _, rfl, rfl, ?_⟩
    cases csr? csr with
    | none => exact .of_sameVisible ⟨rfl, rfl, rfl, rfl, rfl, rfl⟩
    | some c => cases c <;> exact .of_sameVisible ⟨rfl, rfl, rfl, rfl, rfl, rfl⟩
  | askRekey | dssRekey =>
    exact ⟨_, _, rfl, rfl, .check (.check (.of_sameVisible ⟨rfl, rfl, rfl, rfl, rfl, rfl⟩))⟩
  | askInit | dssInit =>
    exact ⟨_, _, rfl, rfl, .check (.check (.check (.of_sameVisible ⟨rfl, rfl, rfl, rfl, rfl, rfl⟩)))⟩
  | dupDuplex | prgNext =>
    exact ⟨_, _, rfl, rfl, .check (SameVisible.setX_complete ⟨rfl, rfl, rfl, rfl, rfl, rfl⟩ _ _)⟩
  | askNext | dssNext =>
    exact ⟨_, _, rfl, rfl,
      .check (.check (SameVisible.setX_complete ⟨rfl, rfl, rfl, rfl, rfl, rfl⟩ _ _))⟩

/-- Settles O47: the second state is the first one with other hidden registers. -/
theorem engineIsInvisibleButForOutputs : Obligations.EngineIsInvisibleButForOutputs := by
  intro i s₁ s₂ t₁ t₂ hsame hdrawn h₁ h₂
  obtain ⟨t, t', ht, ht', hanswer⟩ := exec_sameAnswer i s₁ s₂
  rw [← hsame.eq_withHidden hdrawn] at ht'
  cases ht.symm.trans h₁
  cases ht'.symm.trans h₂
  exact hanswer

end visibility

section setup

variable {s t t' : State}

/-- If the first result is a success, so is the second, with the same engine. -/
def SameAfterSuccess (t t' : State) : Prop :=
  t.err = .ok → t'.err = .ok ∧ SameEngine t t'

/-- Both runs take the same branch of a check, and a check that fails is no success. -/
theorem SameAfterSuccess.check {c : Prop} [Decidable c] {e : Response} {s' : State} (he : e ≠ .ok)
    (h : SameAfterSuccess t t') :
    SameAfterSuccess (if c then s.raise e else t) (if c then s'.raise e else t') := by
  split
  · exact fun hok => absurd hok he
  · exact h

/-- Nothing of `s` but the configuration CSRs and the number of draws goes into a successful SETUP (R41). -/
theorem execSetup_sameAfterSuccess (s other : State) (i : Instr) (hsetup : i.isSetup = true) :
    ∃ t t', exec i s = .next t ∧
      exec i { other with cfg := s.cfg, drawn := s.drawn } = .next t' ∧ SameAfterSuccess t t' := by
  cases i with
  | setupDup | setupAsk | setupDss | setupPrg =>
    exact ⟨_, _, rfl, rfl, .check nofun fun _ => ⟨rfl, SameEngine.refl _⟩⟩
  | _ => cases hsetup

/-- Settles O20: the second state is any other one with the first one's CSRs and draws. -/
theorem setupForgetsThePreviousInstance : Obligations.SetupForgetsThePreviousInstance := by
  intro i s₁ s₂ t₁ t₂ hsetup hcfg hdrawn h₁ h₂ hok
  obtain ⟨t, t', ht, ht', hsame⟩ := execSetup_sameAfterSuccess s₁ s₂ i hsetup
  rw [hcfg, hdrawn] at ht'
  cases ht.symm.trans h₁
  cases ht'.symm.trans h₂
  exact hsame hok

end setup

section status

/-- Bits put in front of `w` bits count from `2^w` on. -/
theorem toNat_append_eq_add {v w : Nat} (x : BitVec v) (y : BitVec w) :
    (x ++ y).toNat = 2 ^ w * x.toNat + y.toNat := by
  rw [BitVec.toNat_append, ← Nat.shiftLeft_add_eq_or_of_lt y.isLt, Nat.shiftLeft_eq, Nat.mul_comm]

/-- The fields of STATUS as numbers (R28). -/
theorem toNat_statusWord (s : State) :
    s.statusWord.toNat = s.err.code.toNat + 2 ^ 4 * s.eqFlag.toNat + 2 ^ 8 * s.mode.code.toNat +
      2 ^ 11 * s.phase.code.toNat := by
  simp only [State.statusWord, toNat_append_eq_add, BitVec.toNat_ofBool, BitVec.toNat_ofNat]
  omega

/-- Settles O16: the fields are as wide as their codes, so the number read is their sum. -/
theorem statusShowsErrEqModePhase : Obligations.StatusShowsErrEqModePhase := by
  intro s rd
  refine ⟨_, rfl, rfl, s.err.code.toNat, s.eqFlag.toNat, s.mode.code.toNat, s.phase.code.toNat,
    ?_, ?_, ?_, ?_, ?_⟩
  · cases s.err <;> decide
  · cases s.eqFlag <;> decide
  · cases s.mode <;> decide
  · cases s.phase <;> decide
  · have hW : 16 ≤ Config.W := by have := Config.thirtyTwo_le_W; omega
    rw [← toNat_statusWord, ← BitVec.toNat_setWidth_of_le hW]
    exact congrArg BitVec.toNat (s.getX_setX_self rd _)

end status

end Sys2Proof.Machine

/-! SUPPORT. The data window and the byte images (spec 20_memory.md R51 to R55): which limb an address names,
what a data-port access reads and replaces, and the bytes of a value and of its rate. -/

namespace Sys2Proof.Machine

section window

/-- An address is four times its register number plus its limb number (R53). -/
theorem addr_toNat (addr : BitVec 6) :
    addr.toNat = 4 * (addrReg addr).val + (addrLimb addr).val := by
  have hreg : (addrReg addr).val = addr.toNat / 4 % 16 := by
    simp [addrReg, Nat.shiftRight_eq_div_pow]
  have hlimb : (addrLimb addr).val = addr.toNat % 4 := by
    simp [addrLimb]
  have hlt : addr.toNat < 64 := addr.isLt
  omega

/-- Each limb of each register has one address (R53). -/
theorem addr_toNat_eq_iff (addr : BitVec 6) (r : Reg) (l : Fin 4) :
    addr.toNat = 4 * r.val + l.val ↔ addrReg addr = r ∧ addrLimb addr = l := by
  rw [addr_toNat, Fin.ext_iff, Fin.ext_iff]
  omega

/-- A limb of a register after a data-port write (R55). -/
theorem State.limb_getX_memWrite (s : State) (addr : BitVec 6) (v : Limb Config.N) (r : Reg) (l : Fin 4) :
    limb ((s.memWrite addr v).getX r) l =
      if addr.toNat = 4 * r.val + l.val then v else limb (s.getX r) l := by
  rw [State.memWrite, State.getX_setX]
  by_cases hr : r = addrReg addr
  · subst hr
    simp [limb_setLimb, addr_toNat_eq_iff]
  · simp [addr_toNat_eq_iff, hr, Ne.symm hr]

/-- A data-port read after a data-port write (R60). -/
theorem State.memRead_memWrite (s : State) (addr : BitVec 6) (v : Limb Config.N) (a : BitVec 6) :
    (s.memWrite addr v).memRead a = if a = addr then v else s.memRead a := by
  simp only [State.memRead, State.limb_getX_memWrite, ← addr_toNat, BitVec.toNat_inj, eq_comm (a := a)]

/-- Settles O50: the step is `memWrite`, which names the limb by its register and its place. -/
theorem dataWriteReplacesOneLimb : Obligations.DataWriteReplacesOneLimb := by
  intro s rest addr v hin
  exact ⟨_, step_of_inbox hin, State.limb_getX_memWrite _ addr v, State.memRead_memWrite _ addr v, rfl⟩

/-- Settles O49: the address of limb `l` of register `r` is read back as `r` and `l`. -/
theorem dataReadAnswersTheLimb : Obligations.DataReadAnswersTheLimb := by
  intro s rest addr r l haddr hin
  obtain ⟨rfl, rfl⟩ := (addr_toNat_eq_iff addr r l).mp haddr
  exact step_of_inbox hin

end window

section bytes

variable {n w : Nat}

/-- One byte for every 8 bits (R51). -/
@[simp] theorem length_leBytes (v : BitVec w) : (leBytes v).length = w / 8 := by
  simp [leBytes]

/-- Byte `j` of the byte image (R51). -/
theorem getElem?_leBytes (v : BitVec w) {j : Nat} (hj : j < w / 8) :
    (leBytes v)[j]? = some (v.extractLsb' (8 * j) 8) := by
  simp [leBytes, hj]

/-- Bit `b` of byte `j` is bit `8j + b` of the value (R51). -/
theorem getLsbD_leBytes (v : BitVec w) {j b : Nat} (hj : j < w / 8) (hb : b < 8) :
    ((leBytes v)[j]?.getD 0).getLsbD b = v.getLsbD (8 * j + b) := by
  simp [getElem?_leBytes v hj, hb]

/-- The bytes of limb `i` are the bytes of the value from byte `i·n/8` on (R9). -/
theorem leBytes_limb (hn : n % 8 = 0) (v : Mws n) (i : Fin 4) :
    leBytes (limb v i) = (List.range (n / 8)).map fun m => v.extractLsb' (8 * (n / 8 * i.val + m)) 8 := by
  refine List.map_congr_left fun m hm => BitVec.eq_of_getLsbD_eq fun b hb => ?_
  have hbit : 8 * m + b < n := by have := List.mem_range.mp hm; omega
  have hpos : n * i.val + (8 * m + b) = 8 * (n / 8 * i.val + m) + b := by
    conv_lhs => rw [← Nat.mul_div_cancel' (Nat.dvd_of_mod_eq_zero hn)]
    ring
  rw [BitVec.getLsbD_extractLsb', BitVec.getLsbD_extractLsb', getLsbD_limb, decide_eq_true hbit,
    Bool.true_and, hpos]

/-- The byte image of a value is the byte images of its limbs, limb 0 first (R51). -/
theorem leBytes_eq_append_limbs (hn : n % 8 = 0) (v : Mws n) :
    leBytes v = leBytes (limb v 0) ++ leBytes (limb v 1) ++ leBytes (limb v 2) ++ leBytes (limb v 3) := by
  have hlen : 4 * n / 8 = n / 8 + n / 8 + n / 8 + n / 8 := by omega
  have hthree : n / 8 * 3 = n / 8 + n / 8 + n / 8 := by omega
  simp only [leBytes_limb hn]
  simp [leBytes, hlen, hthree, List.range_add, Nat.mul_two, Function.comp_def]

/-- Settles O51: length and bits are R51's for every width, so they hold of the value and of one limb. -/
theorem byteImageIsLimbByLimb : Obligations.ByteImageIsLimbByLimb := fun _ v hn =>
  ⟨length_leBytes v, fun _ _ => getLsbD_leBytes v,
    fun l => ⟨length_leBytes l, fun _ _ => getLsbD_leBytes l⟩, leBytes_eq_append_limbs hn v⟩

/-- The rate's bytes are no more than the value's (R52). -/
theorem length_rateBytes (v : BitVec w) {r : Nat} (hw : w % 8 = 0) (hr : r ≤ w) :
    (rateBytes v r).length = (r + 7) / 8 := by
  rw [rateBytes, List.length_take, length_leBytes]
  omega

/-- Bit `b` of byte `j` of the rate's bytes is bit `8j + b` of the rate, and 0 above the rate (R52). -/
theorem getLsbD_rateBytes (v : BitVec w) {r j b : Nat} (hw : w % 8 = 0) (hr : r ≤ w)
    (hj : j < (r + 7) / 8) (hb : b < 8) :
    ((rateBytes v r)[j]?.getD 0).getLsbD b = (decide (8 * j + b < r) && v.getLsbD (8 * j + b)) := by
  have hjw : j < w / 8 := by omega
  have hbit : 8 * j + b < w := by omega
  rw [rateBytes, List.getElem?_take_of_lt hj, getLsbD_leBytes _ hjw hb, BitVec.getLsbD_and, getLsbD_mask,
    decide_eq_true hbit, Bool.true_and, Bool.and_comm]

/-- Settles O52: bit `i` of the rate is bit `i mod 8` of byte `i / 8`. -/
theorem rateBytesPackTheRate : Obligations.RateBytesPackTheRate := by
  intro w v r hw _ hr
  refine ⟨length_rateBytes v hw hr, fun i hi => ?_⟩
  have hbyte : i / 8 < (r + 7) / 8 := Nat.div_lt_of_lt_mul hi
  rw [getLsbD_rateBytes v hw hr hbyte (Nat.mod_lt i (by decide)), Nat.div_add_mod]

end bytes

end Sys2Proof.Machine

/-! SUPPORT. The encoding (spec 30_encoding.md R70 to R80): the fields of a word as numbers, the encoder and
the decoder as each other's inverse, the opcode table as the decoder's domain, and the step of a word on the
command port. -/

namespace Sys2Proof

section fields

variable {op : BitVec 8} {rd ra rb : Fin 16} {imm : BitVec 16} {w : CommandWord}

/-- A register number goes through its field unchanged (R73). -/
@[simp] theorem fieldNumber_ofFin (r : Fin 16) : fieldNumber ⟨r⟩ = r := rfl

/-- A field holds its own number (R73). -/
@[simp] theorem ofFin_fieldNumber (b : BitVec 4) : (⟨fieldNumber b⟩ : BitVec 4) = b := rfl

theorem toNat_opField (w : CommandWord) : (opField w).toNat = w.toNat / 2 ^ 24 % 2 ^ 8 := by
  simp [opField, Nat.shiftRight_eq_div_pow]

theorem toNat_rdBits (w : CommandWord) : (rdBits w).toNat = w.toNat / 2 ^ 20 % 2 ^ 4 := by
  simp [rdBits, Nat.shiftRight_eq_div_pow]

theorem toNat_raBits (w : CommandWord) : (raBits w).toNat = w.toNat / 2 ^ 16 % 2 ^ 4 := by
  simp [raBits, Nat.shiftRight_eq_div_pow]

theorem toNat_rbBits (w : CommandWord) : (rbBits w).toNat = w.toNat / 2 ^ 12 % 2 ^ 4 := by
  simp [rbBits, Nat.shiftRight_eq_div_pow]

theorem toNat_zero12 (w : CommandWord) : (zero12 w).toNat = w.toNat % 2 ^ 12 := by
  simp [zero12]

theorem toNat_immField (w : CommandWord) : (immField w).toNat = w.toNat % 2 ^ 16 := by
  simp [immField]

/-- A format R word as a number (R71). -/
theorem toNat_formatR (op : BitVec 8) (rd ra rb : Fin 16) :
    (formatR op rd ra rb).toNat =
      2 ^ 24 * op.toNat + 2 ^ 20 * rd.val + 2 ^ 16 * ra.val + 2 ^ 12 * rb.val := by
  refine (Machine.toNat_append_eq_add _ _).trans ?_
  simp only [Machine.toNat_append_eq_add, BitVec.toNat_ofNat]
  omega

/-- A format I word as a number (R72). -/
theorem toNat_formatI (op : BitVec 8) (rd ra : Fin 16) (imm : BitVec 16) :
    (formatI op rd ra imm).toNat =
      2 ^ 24 * op.toNat + 2 ^ 20 * rd.val + 2 ^ 16 * ra.val + imm.toNat := by
  refine (Machine.toNat_append_eq_add _ _).trans ?_
  simp only [Machine.toNat_append_eq_add, BitVec.toNat_ofNat]
  omega

@[simp] theorem opField_formatR : opField (formatR op rd ra rb) = op := by
  apply BitVec.eq_of_toNat_eq
  rw [toNat_opField, toNat_formatR]
  omega

@[simp] theorem rdBits_formatR : rdBits (formatR op rd ra rb) = ⟨rd⟩ := by
  refine BitVec.eq_of_toNat_eq (y := (⟨rd⟩ : BitVec 4)) ?_
  change _ = rd.val
  rw [toNat_rdBits, toNat_formatR]
  omega

@[simp] theorem raBits_formatR : raBits (formatR op rd ra rb) = ⟨ra⟩ := by
  refine BitVec.eq_of_toNat_eq (y := (⟨ra⟩ : BitVec 4)) ?_
  change _ = ra.val
  rw [toNat_raBits, toNat_formatR]
  omega

@[simp] theorem rbBits_formatR : rbBits (formatR op rd ra rb) = ⟨rb⟩ := by
  refine BitVec.eq_of_toNat_eq (y := (⟨rb⟩ : BitVec 4)) ?_
  change _ = rb.val
  rw [toNat_rbBits, toNat_formatR]
  omega

@[simp] theorem zero12_formatR : zero12 (formatR op rd ra rb) = 0#12 :=
  BitVec.extractLsb'_append_eq_right

@[simp] theorem opField_formatI : opField (formatI op rd ra imm) = op := by
  apply BitVec.eq_of_toNat_eq
  rw [toNat_opField, toNat_formatI]
  omega

@[simp] theorem rdBits_formatI : rdBits (formatI op rd ra imm) = ⟨rd⟩ := by
  refine BitVec.eq_of_toNat_eq (y := (⟨rd⟩ : BitVec 4)) ?_
  change _ = rd.val
  rw [toNat_rdBits, toNat_formatI]
  omega

@[simp] theorem raBits_formatI : raBits (formatI op rd ra imm) = ⟨ra⟩ := by
  refine BitVec.eq_of_toNat_eq (y := (⟨ra⟩ : BitVec 4)) ?_
  change _ = ra.val
  rw [toNat_raBits, toNat_formatI]
  omega

@[simp] theorem immField_formatI : immField (formatI op rd ra imm) = imm :=
  BitVec.extractLsb'_append_eq_right

/-- The bits of a format I word that DUP.DUPLEX leaves zero are bits of its immediate. -/
@[simp] theorem extractLsb'_one_formatI :
    (formatI op rd ra imm).extractLsb' 1 15 = imm.extractLsb' 1 15 :=
  BitVec.extractLsb'_append_eq_of_add_le (by decide)

/-- The flag bit of a format I word is bit 0 of its immediate. -/
@[simp] theorem getElem_zero_formatI : (formatI op rd ra imm)[0] = imm[0] :=
  BitVec.getElem_append (by decide)

/-- The format R word made of the fields of `w` is `w`, when `zero12 = 0` (R71). -/
theorem formatR_eq (hop : (opField w).toNat = op.toNat) (hrd : rdBits w = ⟨rd⟩)
    (hra : raBits w = ⟨ra⟩) (hrb : rbBits w = ⟨rb⟩) (hzero : zero12 w = 0#12) : formatR op rd ra rb = w := by
  have hrd : (rdBits w).toNat = rd.val := congrArg BitVec.toNat hrd
  have hra : (raBits w).toNat = ra.val := congrArg BitVec.toNat hra
  have hrb : (rbBits w).toNat = rb.val := congrArg BitVec.toNat hrb
  have hzero : (zero12 w).toNat = 0 := congrArg BitVec.toNat hzero
  rw [toNat_opField] at hop
  rw [toNat_rdBits] at hrd
  rw [toNat_raBits] at hra
  rw [toNat_rbBits] at hrb
  rw [toNat_zero12] at hzero
  apply BitVec.eq_of_toNat_eq
  rw [toNat_formatR]
  omega

/-- The format I word made of the fields of `w` is `w` (R72). -/
theorem formatI_eq (hop : (opField w).toNat = op.toNat) (hrd : rdBits w = ⟨rd⟩)
    (hra : raBits w = ⟨ra⟩) (himm : immField w = imm) : formatI op rd ra imm = w := by
  have hrd : (rdBits w).toNat = rd.val := congrArg BitVec.toNat hrd
  have hra : (raBits w).toNat = ra.val := congrArg BitVec.toNat hra
  rw [toNat_opField] at hop
  rw [toNat_rdBits] at hrd
  rw [toNat_raBits] at hra
  apply BitVec.eq_of_toNat_eq
  rw [toNat_formatI, ← himm, toNat_immField]
  omega

/-- An immediate with nothing above bit 0 is the flag in bit 0 (R74, the row of DUP.DUPLEX). -/
theorem immField_of_flag (h : w.extractLsb' 1 15 = 0#15) :
    immField w = BitVec.ofNat 16 (w.getLsbD 0).toNat := by
  have himm : w.extractLsb' 1 15 ++ w.extractLsb' 0 1 = immField w :=
    BitVec.extractLsb'_append_extractLsb'_eq_extractLsb' (start₁ := 0) (len₁ := 1) rfl
  have hbit : (w.extractLsb' 0 1).getLsbD 0 = w.getLsbD 0 := by simp
  rw [← himm, h, ← hbit]
  generalize w.extractLsb' 0 1 = b
  revert b
  decide

end fields

section roundTrip

variable {w : CommandWord} {i j : Instr}

/-- Joined fields are zero when each of them is. -/
theorem append_eq_zero_iff {m n : Nat} {x : BitVec m} {y : BitVec n} :
    x ++ y = 0#(m + n) ↔ x = 0#m ∧ y = 0#n := by
  rw [← BitVec.toNat_inj, ← BitVec.toNat_inj, ← BitVec.toNat_inj, Machine.toNat_append_eq_add]
  simp

/-- A command stands exactly where its unused bits are zero (R75). -/
theorem requireZero_eq_ok_iff {k : Nat} {unused : BitVec k} :
    requireZero unused i = .ok j ↔ unused = 0#k ∧ i = j := by
  by_cases h : unused = 0#k <;> simp [requireZero, h]

/-- The decoder reads back the opcode and the operands that the encoder wrote, and zero in every field that
it did not use (R71 to R75). -/
theorem decode_encode (i : Instr) : decode (encode i) = .ok i := by
  cases i with
  | dupDuplex rd ra f => cases f <;> simp [encode, decode, requireZero_eq_ok_iff]
  | _ => simp [encode, decode, requireZero_eq_ok_iff]

/-- Settles O55: every field of the encoding reads back as it was written. -/
theorem decodeEncodeRoundTrip : Obligations.DecodeEncodeRoundTrip := decode_encode

/-- A word that decodes is the encoding of what it decodes to: the opcode and the operands are its fields,
and the fields that its arm of the decoder does not use are zero (R75). -/
theorem encode_of_decode (h : decode w = .ok i) : encode i = w := by
  simp only [decode] at h
  split at h
  -- no opcode
  case h_30 => cases h
  -- SHL, SHR, ROTL, ROTR
  case h_6 hop | h_7 hop | h_8 hop | h_9 hop =>
    cases h
    exact formatI_eq hop rfl rfl rfl
  -- CSRW
  case h_14 hop =>
    obtain ⟨hra, rfl⟩ := requireZero_eq_ok_iff.mp h
    exact formatI_eq hop rfl hra rfl
  -- DUP.DUPLEX
  case h_18 hop =>
    obtain ⟨himm, rfl⟩ := requireZero_eq_ok_iff.mp h
    exact formatI_eq hop rfl rfl (immField_of_flag himm)
  -- format R
  all_goals
    next hop =>
    simp only [requireZero_eq_ok_iff, append_eq_zero_iff] at h
    obtain ⟨hunused, rfl⟩ := h
    refine formatR_eq hop ?_ ?_ ?_ ?_ <;> simp [hunused]

end roundTrip

section table

variable {w : CommandWord} {i : Instr} {row : OpcodeRow}

/-- The encoding of a command matches the command's own row (R74). -/
theorem row_covers_encode : ∀ i : Instr, i.row.covers (encode i) = true
  | .not rd ra => Laws.EncodedWord.not rd ra
  | .and rd ra rb => Laws.EncodedWord.and rd ra rb
  | .or rd ra rb => Laws.EncodedWord.or rd ra rb
  | .xor rd ra rb => Laws.EncodedWord.xor rd ra rb
  | .cmpeq ra rb => Laws.EncodedWord.cmpeq ra rb
  | .shl rd ra imm16 => Laws.EncodedWord.shl rd ra imm16
  | .shr rd ra imm16 => Laws.EncodedWord.shr rd ra imm16
  | .rotl rd ra imm16 => Laws.EncodedWord.rotl rd ra imm16
  | .rotr rd ra imm16 => Laws.EncodedWord.rotr rd ra imm16
  | .add rd ra rb => Laws.EncodedWord.add rd ra rb
  | .sub rd ra rb => Laws.EncodedWord.sub rd ra rb
  | .rand rd => Laws.EncodedWord.rand rd
  | .perm rd ra => Laws.EncodedWord.perm rd ra
  | .csrw csr imm16 => Laws.EncodedWord.csrw csr imm16
  | .csrr rd csr => Laws.EncodedWord.csrr rd csr
  | .setupDup => Laws.EncodedWord.setupDup
  | .dupReset ra => Laws.EncodedWord.dupReset ra
  | .dupDuplex rd ra f => Laws.EncodedWord.dupDuplex rd ra f
  | .setupAsk => Laws.EncodedWord.setupAsk
  | .askRekey ra => Laws.EncodedWord.askRekey ra
  | .askInit ra => Laws.EncodedWord.askInit ra
  | .askNext rd => Laws.EncodedWord.askNext rd
  | .setupDss => Laws.EncodedWord.setupDss
  | .dssRekey ra => Laws.EncodedWord.dssRekey ra
  | .dssInit ra => Laws.EncodedWord.dssInit ra
  | .dssNext rd => Laws.EncodedWord.dssNext rd
  | .setupPrg => Laws.EncodedWord.setupPrg
  | .prgRefresh ra => Laws.EncodedWord.prgRefresh ra
  | .prgNext rd => Laws.EncodedWord.prgNext rd

/-- The table holds the row of every command. -/
theorem row_mem_opcodeTable (i : Instr) : i.row ∈ opcodeTable := by
  refine List.elem_iff.mp ?_
  cases i <;> rfl

/-- The table holds no other row. -/
theorem exists_row_eq (h : row ∈ opcodeTable) : ∃ i : Instr, i.row = row := by
  simp only [opcodeTable, List.mem_append] at h
  obtain (h | h) | h := h <;>
  · obtain ⟨i, -, hi⟩ := List.mem_map.mp h
    exact ⟨i, hi⟩

/-- A word is covered by a row of the table exactly when it is covered by the row of a command (R76). -/
theorem wordWellFormed_iff : wordWellFormed w = true ↔ ∃ i : Instr, i.row.covers w = true := by
  rw [wordWellFormed, List.any_eq_true]
  constructor
  · rintro ⟨row, hmem, hcovers⟩
    obtain ⟨i, rfl⟩ := exists_row_eq hmem
    exact ⟨i, hcovers⟩
  · rintro ⟨i, hcovers⟩
    exact ⟨i.row, row_mem_opcodeTable i, hcovers⟩

/-- Where the mask keeps every bit, a word that matches holds the bits of the pattern. -/
theorem extractLsb'_of_and_eq {mask pattern : CommandWord} (h : w &&& mask = pattern) {start len : Nat}
    {bits : BitVec len} (hmask : mask.extractLsb' start len = .allOnes len)
    (hpattern : pattern.extractLsb' start len = bits) : w.extractLsb' start len = bits := by
  rw [← hpattern, ← h, BitVec.extractLsb'_and, hmask, BitVec.and_allOnes]

/-- Every mask of the table keeps the opcode (R74). -/
theorem mask_keeps_opcode : ∀ row ∈ opcodeTable, row.mask.extractLsb' 24 8 = .allOnes 8 := by decide

/-- No two rows have the same opcode (R74). -/
theorem opcodes_differ :
    opcodeTable.Pairwise fun a b => opField a.pattern ≠ opField b.pattern := by decide

/-- A word that a row covers has the row's opcode. -/
theorem opField_of_covers (hmem : row ∈ opcodeTable) (h : row.covers w = true) :
    opField w = opField row.pattern := by
  rw [OpcodeRow.covers, beq_iff_eq] at h
  exact extractLsb'_of_and_eq h (mask_keeps_opcode row hmem) rfl

/-- A word that the row of a command covers decodes: its opcode is the row's, and the fields that the decoder
asks to be zero are those that the row's mask keeps and its pattern clears. -/
theorem decodes_of_row_covers (h : i.row.covers w = true) : ∃ j, decode w = .ok j := by
  have hop : w.extractLsb' 24 8 = i.row.pattern.extractLsb' 24 8 :=
    opField_of_covers (row_mem_opcodeTable i) h
  rw [OpcodeRow.covers, beq_iff_eq] at h
  cases i <;> simp only [Instr.row] at h hop
  case shl | shr | rotl | rotr =>
    simp [decode, opField, hop]
  case and | or | xor | add | sub =>
    have hzero : zero12 w = 0 := extractLsb'_of_and_eq h (by decide) (by decide)
    simp [decode, opField, hop, hzero, requireZero]
  case not | perm | csrr =>
    have hrb : rbBits w = 0 := extractLsb'_of_and_eq h (by decide) (by decide)
    have hzero : zero12 w = 0 := extractLsb'_of_and_eq h (by decide) (by decide)
    simp [decode, opField, hop, hrb, hzero, requireZero]
  case cmpeq =>
    have hrd : rdBits w = 0 := extractLsb'_of_and_eq h (by decide) (by decide)
    have hzero : zero12 w = 0 := extractLsb'_of_and_eq h (by decide) (by decide)
    simp [decode, opField, hop, hrd, hzero, requireZero]
  case rand | askNext | dssNext | prgNext =>
    have hra : raBits w = 0 := extractLsb'_of_and_eq h (by decide) (by decide)
    have hrb : rbBits w = 0 := extractLsb'_of_and_eq h (by decide) (by decide)
    have hzero : zero12 w = 0 := extractLsb'_of_and_eq h (by decide) (by decide)
    simp [decode, opField, hop, hra, hrb, hzero, requireZero]
  case csrw =>
    have hra : raBits w = 0 := extractLsb'_of_and_eq h (by decide) (by decide)
    simp [decode, opField, hop, hra, requireZero]
  case dupReset | askRekey | askInit | dssRekey | dssInit | prgRefresh =>
    have hrd : rdBits w = 0 := extractLsb'_of_and_eq h (by decide) (by decide)
    have hrb : rbBits w = 0 := extractLsb'_of_and_eq h (by decide) (by decide)
    have hzero : zero12 w = 0 := extractLsb'_of_and_eq h (by decide) (by decide)
    simp [decode, opField, hop, hrd, hrb, hzero, requireZero]
  case setupDup | setupAsk | setupDss | setupPrg =>
    have hrd : rdBits w = 0 := extractLsb'_of_and_eq h (by decide) (by decide)
    have hra : raBits w = 0 := extractLsb'_of_and_eq h (by decide) (by decide)
    have hrb : rbBits w = 0 := extractLsb'_of_and_eq h (by decide) (by decide)
    have hzero : zero12 w = 0 := extractLsb'_of_and_eq h (by decide) (by decide)
    simp [decode, opField, hop, hrd, hra, hrb, hzero, requireZero]
  case dupDuplex =>
    have himm : w.extractLsb' 1 15 = 0 := extractLsb'_of_and_eq h (by decide) (by decide)
    simp [decode, opField, hop, himm, requireZero]

/-- Settles O56: a word decodes to `i` when it is the encoding of `i`, which the row of `i` covers; a word
covered by two rows would have two opcodes. -/
theorem decoderFollowsTheOpcodeTable : Obligations.DecoderFollowsTheOpcodeTable := by
  have hcovers {w i} (h : decode w = .ok i) : i.row.covers w = true :=
    encode_of_decode h ▸ row_covers_encode i
  refine ⟨fun w => ⟨?_, fun i h => ⟨encode_of_decode h, hcovers h⟩⟩, rfl, ?_⟩
  · rw [wordWellFormed_iff]
    exact ⟨fun ⟨i, h⟩ => ⟨i, hcovers h⟩, fun ⟨_, h⟩ => decodes_of_row_covers h⟩
  · refine opcodes_differ.imp_of_mem fun ha hb hne w ⟨hwa, hwb⟩ => hne ?_
    rw [← opField_of_covers ha hwa, ← opField_of_covers hb hwb]

/-- Settles O57: each of the eight words is the encoding of its command. -/
theorem specEncodingsDecode : Obligations.SpecEncodingsDecode :=
  ⟨decode_encode (.add 3 1 2), decode_encode (.shl 1 1 8), decode_encode (.csrw 0 12),
    decode_encode (.dupDuplex 2 1 true), decode_encode (.cmpeq 3 4), decode_encode (.askNext 3),
    decode_encode (.dssInit 2), decode_encode (.prgRefresh 1)⟩

end table

end Sys2Proof

namespace Sys2Proof.Machine

section commands

variable {s : State}

/-- A command whose only effect is the value written to `rd`. -/
theorem wroteOnly_setX_complete (s : State) (rd : Reg) (v : Word) :
    WroteOnly rd v [] s (s.setX rd v).complete :=
  ⟨s.getX_setX_self rd v, fun _ hr => s.getX_setX_ne v hr, by
    simp [State.complete, State.respond, State.setX]⟩

/-- Settles O11: `a OR a = a` and `a XOR a = 0`. -/
theorem movCopiesAndClrClears : Obligations.MovCopiesAndClrClears := by
  intro s rd ra
  refine ⟨⟨_, rfl, ?_⟩, ⟨_, rfl, ?_⟩⟩
  · rw [BitVec.or_self]
    exact wroteOnly_setX_complete s rd _
  · rw [BitVec.xor_self]
    exact wroteOnly_setX_complete s rd _

/-- A word that decodes runs as its command (R77). -/
theorem runCommand_of_decode_ok {w : CommandWord} {i : Instr} (h : decode w = .ok i) :
    runCommand w s = exec i s := by
  rw [runCommand, h]

/-- A word that does not decode raises `IllegalCommand` (R77). -/
theorem runCommand_of_decode_error {w : CommandWord} {e : DecodeError} (h : decode w = .error e) :
    runCommand w s = .next (s.raise .illegalCommand) := by
  rw [runCommand, h]

/-- Settles O54: a step takes the oldest request, and a command word runs by what it decodes to. -/
theorem stepRunsTheDecodedCommand : Obligations.StepRunsTheDecodedCommand := fun _ =>
  ⟨fun _ _ _ hin hdec => (step_of_inbox hin).trans (runCommand_of_decode_ok hdec),
    fun _ _ _ hin hdec => (step_of_inbox hin).trans (runCommand_of_decode_error hdec), step_of_idle⟩

end commands

end Sys2Proof.Machine

/-! SUPPORT. The bitwise commands and EQ (spec 40_mws_bitwise.md R90 to R95, 10_state.md R23): the limbs of a
bitwise result, what the equality test says, and which command writes EQ. -/

namespace Sys2Proof.Machine

section limbwise

variable {n : Nat}

/-- AND has no cross-limb interaction (R91, R95). -/
theorem limb_and (a b : Mws n) (i : Fin 4) : limb (a &&& b) i = limb a i &&& limb b i :=
  BitVec.extractLsb'_and

/-- OR has no cross-limb interaction (R92, R95). -/
theorem limb_or (a b : Mws n) (i : Fin 4) : limb (a ||| b) i = limb a i ||| limb b i :=
  BitVec.extractLsb'_or

/-- XOR has no cross-limb interaction (R93, R95). -/
theorem limb_xor (a b : Mws n) (i : Fin 4) : limb (a ^^^ b) i = limb a i ^^^ limb b i :=
  BitVec.extractLsb'_xor

/-- NOT has no cross-limb interaction: every bit of a limb is a bit of the value (R90, R95). -/
theorem limb_not (a : Mws n) (i : Fin 4) : limb (~~~a) i = ~~~limb a i := by
  apply BitVec.eq_of_getLsbD_eq
  intro b hb
  have hbit : n * i.val + b < 4 * n := calc
    n * i.val + b < n * (i.val + 1) := by rw [Nat.mul_succ]; omega
    _ ≤ n * 4 := Nat.mul_le_mul_left n i.isLt
    _ = 4 * n := Nat.mul_comm n 4
  simp only [BitVec.getLsbD_not, getLsbD_limb, hb, hbit, decide_true, Bool.true_and]

/-- A limb of a complement as a number (R90). -/
theorem toNat_limb_not (a : Mws n) (i : Fin 4) :
    (limb (~~~a) i).toNat = 2 ^ n - 1 - (limb a i).toNat := by
  rw [limb_not, BitVec.toNat_not]

/-- `EQ_W` compares limb by limb (R94). -/
theorem eqW_iff_limbs (a b : Mws n) : eqW a b = true ↔ ∀ i, limb a i = limb b i :=
  (eqW_iff a b).trans ⟨fun h _ => h ▸ rfl, eq_of_limbs⟩

/-- `EQ_W` compares the integers (R94). -/
theorem eqW_iff_toNat (a b : Mws n) : eqW a b = true ↔ a.toNat = b.toNat :=
  (eqW_iff a b).trans BitVec.toNat_inj.symm

end limbwise

/-- Settles O1: the result is the operator of `BitVec` on the whole registers, which works limb by limb. -/
theorem bitwiseCommandsWorkLimbByLimb : Obligations.BitwiseCommandsWorkLimbByLimb := by
  intro s rd ra rb
  refine ⟨⟨_, rfl, ?_⟩, ⟨_, rfl, ?_⟩, ⟨_, rfl, ?_⟩, ⟨_, rfl, ?_⟩⟩ <;>
    rw [State.complete_getX, State.getX_setX_self]
  · exact ⟨wroteOnly_setX_complete s rd _, toNat_limb_not _⟩
  · exact ⟨wroteOnly_setX_complete s rd _, limb_and _ _⟩
  · exact ⟨wroteOnly_setX_complete s rd _, limb_or _ _⟩
  · exact ⟨wroteOnly_setX_complete s rd _, limb_xor _ _⟩

section eqFlag

variable {i : Instr} {s t : State}

/-- A check that fails raises an error, and an error leaves EQ as it was (R172). -/
theorem State.eqFlag_check {c : Prop} [Decidable c] {e : Response} (h : t.eqFlag = s.eqFlag) :
    (if c then s.raise e else t).eqFlag = s.eqFlag :=
  iteInduction (motive := fun u : State => u.eqFlag = s.eqFlag) (fun _ => s.raise_eqFlag e) fun _ => h

/-- A command other than CMPEQ leaves EQ as it was, past each of its checks in order (R23). -/
theorem exec_eqFlag (hexec : exec i s = .next t) (hne : ∀ ra rb, i ≠ .cmpeq ra rb) :
    t.eqFlag = s.eqFlag := by
  cases i with
  | cmpeq ra rb => exact absurd rfl (hne ra rb)
  | not | and | or | xor | add | sub | rand | perm =>
    cases hexec
    rfl
  | csrw csr =>
    cases hexec
    cases cfgReg? csr with
    | none => rfl
    | some c => rfl
  | csrr rd csr =>
    cases hexec
    cases csr? csr with
    | none => rfl
    | some c => rfl
  | shl | shr | rotl | rotr | setupDup | setupAsk | setupDss | setupPrg | dupReset | dupDuplex
  | prgRefresh | prgNext =>
    cases hexec
    exact State.eqFlag_check rfl
  | askRekey | askNext | dssRekey | dssNext =>
    cases hexec
    exact State.eqFlag_check (State.eqFlag_check rfl)
  | askInit | dssInit =>
    cases hexec
    exact State.eqFlag_check (State.eqFlag_check (State.eqFlag_check rfl))

/-- Settles O2: CMPEQ writes `EQ_W` of its operands to EQ, and no other command writes EQ. -/
theorem cmpeqAloneSetsEq : Obligations.CmpeqAloneSetsEq :=
  ⟨fun _ _ _ => ⟨_, rfl, eqW_iff_limbs _ _, eqW_iff_toNat _ _, rfl⟩,
    fun _ _ _ => exec_eqFlag⟩

end eqFlag

end Sys2Proof.Machine

/-! SUPPORT. The shifts and the rotations (spec 41_mws_shift_rotate.md R100 to R104): the repeated limb-wise
steps are one shift, or one rotation, of the whole value. -/

namespace Sys2Proof.Machine

section shifts

variable {n : Nat}

/-- `SHL1` with 0 entering is a shift of the whole value up by one bit. -/
theorem shl1With_false (a : Mws n) : shl1With false a = a <<< 1 := by
  apply BitVec.eq_of_getLsbD_eq
  intro m hm
  rw [getLsbD_shl1With false a hm, BitVec.getLsbD_shiftLeft, decide_eq_true hm]
  cases m with
  | zero => rfl
  | succ m => simp

/-- `SHR1` with 0 entering is a shift of the whole value down by one bit. -/
theorem shr1With_false (a : Mws n) : shr1With false a = a >>> 1 := by
  apply BitVec.eq_of_getLsbD_eq
  intro m hm
  rw [getLsbD_shr1With false a hm, BitVec.getLsbD_ushiftRight, Nat.add_comm 1 m]
  split
  · exact (BitVec.getLsbD_of_ge a (m + 1) (by omega)).symm
  · rfl

/-- `SHL_W` is a shift of the whole value (R100). -/
theorem shlW_eq (a : Mws n) (s : Nat) : shlW a s = a <<< s := by
  induction s with
  | zero => exact (BitVec.shiftLeft_zero a).symm
  | succ s ih =>
    rw [BitVec.shiftLeft_add, ← ih, ← shl1With_false]
    exact Function.iterate_succ_apply' (shl1With false) s a

/-- `SHR_W` is a shift of the whole value (R101). -/
theorem shrW_eq (a : Mws n) (s : Nat) : shrW a s = a >>> s := by
  induction s with
  | zero => exact (BitVec.ushiftRight_zero a).symm
  | succ s ih =>
    rw [BitVec.shiftRight_add, ← ih, ← shr1With_false]
    exact Function.iterate_succ_apply' (shr1With false) s a

/-- `SHL_W` multiplies by a power of two and drops what passes the top (R100). -/
theorem toNat_shlW (a : Mws n) (s : Nat) : (shlW a s).toNat = a.toNat * 2 ^ s % 2 ^ (4 * n) := by
  rw [shlW_eq, BitVec.toNat_shiftLeft, Nat.shiftLeft_eq]

/-- `SHR_W` divides by a power of two (R101). -/
theorem toNat_shrW (a : Mws n) (s : Nat) : (shrW a s).toNat = a.toNat / 2 ^ s := by
  rw [shrW_eq, BitVec.toNat_ushiftRight, Nat.shiftRight_eq_div_pow]

/-- `ROTL_W` is a rotation of the whole value (R102). -/
theorem rotlW_eq (a : Mws n) {s : Nat} (hs : s < 4 * n) : rotlW a s = a.rotateLeft s := by
  rw [rotlW, shlW_eq, shrW_eq, BitVec.rotateLeft_def, Nat.mod_eq_of_lt hs]
  split
  · next h =>
    subst h
    simp [BitVec.ushiftRight_eq_zero]
  · rfl

/-- `ROTR_W` is a rotation of the whole value (R103). -/
theorem rotrW_eq (a : Mws n) {s : Nat} (hs : s < 4 * n) : rotrW a s = a.rotateRight s := by
  rw [rotrW, shlW_eq, shrW_eq, BitVec.rotateRight_def, Nat.mod_eq_of_lt hs]
  split
  · next h =>
    subst h
    simp
  · rfl

/-- `ROTL_W` moves bit `m` up to bit `(m + s) mod W` (R102). -/
theorem getLsbD_rotlW (a : Mws n) {s m : Nat} (hs : s < 4 * n) (hm : m < 4 * n) :
    (rotlW a s).getLsbD ((m + s) % (4 * n)) = a.getLsbD m := by
  rw [rotlW_eq a hs, BitVec.getLsbD_rotateLeft, Nat.mod_eq_of_lt hs]
  rcases Nat.lt_or_ge (m + s) (4 * n) with h | h
  · have hnot : ¬ m + s < s := by omega
    simp [Nat.mod_eq_of_lt h, h, hnot]
  · have hwrap : (m + s) % (4 * n) = m + s - 4 * n := by
      rw [Nat.mod_eq_sub_mod h, Nat.mod_eq_of_lt (by omega)]
    have hlt : m + s - 4 * n < s := by omega
    have hback : 4 * n - s + (m + s - 4 * n) = m := by omega
    simp [hwrap, hlt, hback]

/-- `ROTR_W` moves bit `(m + s) mod W` down to bit `m` (R103). -/
theorem getLsbD_rotrW (a : Mws n) {s m : Nat} (hs : s < 4 * n) (hm : m < 4 * n) :
    (rotrW a s).getLsbD m = a.getLsbD ((m + s) % (4 * n)) := by
  rw [rotrW_eq a hs, BitVec.getLsbD_rotateRight, Nat.mod_eq_of_lt hs]
  rcases Nat.lt_or_ge (m + s) (4 * n) with h | h
  · have hlt : m < 4 * n - s := by omega
    rw [Nat.mod_eq_of_lt h, Nat.add_comm m s]
    simp [hlt]
  · have hwrap : (m + s) % (4 * n) = m - (4 * n - s) := by
      rw [Nat.mod_eq_sub_mod h, Nat.mod_eq_of_lt (by omega)]
      omega
    have hnot : ¬ m < 4 * n - s := by omega
    simp [hwrap, hm, hnot]

end shifts

section commands

variable (f : Word → Nat → Word) (rd ra : Reg) {imm16 : BitVec 16} (s : State)

/-- The register that a shift or rotate in range writes (R104). -/
theorem getX_shiftCommand (h : imm16.toNat < Config.W) :
    (shiftCommand f rd ra imm16 s).getX rd = f (s.getX ra) imm16.toNat := by
  rw [shiftCommand_of_lt f rd ra s h, State.complete_getX, State.getX_setX_self]

/-- A shift or rotate in range completes and writes `rd` only (R104). -/
theorem wroteOnly_shiftCommand (h : imm16.toNat < Config.W) :
    WroteOnly rd ((shiftCommand f rd ra imm16 s).getX rd) [] s (shiftCommand f rd ra imm16 s) := by
  rw [getX_shiftCommand f rd ra s h, shiftCommand_of_lt f rd ra s h]
  exact wroteOnly_setX_complete s rd _

end commands

/-- Settles O3: SHL writes `SHL_W`, the whole value shifted up. -/
theorem shlMultipliesByPowerOfTwo : Obligations.ShlMultipliesByPowerOfTwo := by
  intro s rd ra imm16 h
  refine ⟨_, rfl, wroteOnly_shiftCommand shlW rd ra s h, ?_⟩
  rw [getX_shiftCommand shlW rd ra s h, toNat_shlW]

/-- Settles O4: SHR writes `SHR_W`, the whole value shifted down. -/
theorem shrDividesByPowerOfTwo : Obligations.ShrDividesByPowerOfTwo := by
  intro s rd ra imm16 h
  refine ⟨_, rfl, wroteOnly_shiftCommand shrW rd ra s h, ?_⟩
  rw [getX_shiftCommand shrW rd ra s h, toNat_shrW]

/-- Settles O5: ROTL writes `ROTL_W`, the whole value rotated up. -/
theorem rotlMovesEveryBitUp : Obligations.RotlMovesEveryBitUp := by
  intro s rd ra imm16 h
  refine ⟨_, rfl, wroteOnly_shiftCommand rotlW rd ra s h, fun m hm => ?_⟩
  rw [getX_shiftCommand rotlW rd ra s h, getLsbD_rotlW _ h hm]

/-- Settles O6: ROTR writes `ROTR_W`, the whole value rotated down. -/
theorem rotrMovesEveryBitDown : Obligations.RotrMovesEveryBitDown := by
  intro s rd ra imm16 h
  refine ⟨_, rfl, wroteOnly_shiftCommand rotrW rd ra s h, fun m hm => ?_⟩
  rw [getX_shiftCommand rotrW rd ra s h, getLsbD_rotrW _ h hm]

end Sys2Proof.Machine

/-! SUPPORT. The wrapping arithmetic (spec 42_mws_arith.md R110 to R114): the limb-wise addition with its
rippling carry is the addition of the whole values modulo `2^W`, so negation and subtraction are too. -/

namespace Sys2Proof.Machine

section wrapping

variable {n : Nat}

/-- A value is the sum of its limbs, each at its place (R9). -/
theorem toNat_eq_sum_limbs (v : Mws n) :
    v.toNat = (limb v 0).toNat + (limb v 1).toNat * 2 ^ n + (limb v 2).toNat * 2 ^ (2 * n) +
      (limb v 3).toNat * 2 ^ (3 * n) := by
  rw [← toNat_ofLimbs, ofLimbs_limb]

/-- What the ripple of R111 writes and the carry that it drops are together the true sum: each carry out
of a limb is the carry into the next. -/
theorem exists_carry_toNat_addW (a b : Mws n) :
    ∃ c, (addW a b).toNat + 2 ^ (4 * n) * c = a.toNat + b.toNat := by
  rw [addW, toNat_ofLimbs, toNat_eq_sum_limbs a, toNat_eq_sum_limbs b]
  obtain ⟨h0, hc0⟩ := addLimb_spec (limb a 0) (limb b 0) (Nat.zero_le 1)
  generalize addLimb (limb a 0) (limb b 0) 0 = y0 at *
  obtain ⟨h1, hc1⟩ := addLimb_spec (limb a 1) (limb b 1) hc0
  generalize addLimb (limb a 1) (limb b 1) y0.2 = y1 at *
  obtain ⟨h2, hc2⟩ := addLimb_spec (limb a 2) (limb b 2) hc1
  generalize addLimb (limb a 2) (limb b 2) y1.2 = y2 at *
  obtain ⟨h3, -⟩ := addLimb_spec (limb a 3) (limb b 3) hc2
  generalize addLimb (limb a 3) (limb b 3) y2.2 = y3 at *
  exact ⟨y3.2, by linear_combination h0 + 2 ^ n * h1 + 2 ^ (2 * n) * h2 + 2 ^ (3 * n) * h3⟩

/-- `ADD_W` is the addition of the whole values (R111). -/
theorem addW_eq (a b : Mws n) : addW a b = a + b := by
  obtain ⟨c, hc⟩ := exists_carry_toNat_addW a b
  apply BitVec.eq_of_toNat_eq
  rw [BitVec.toNat_add, ← hc, Nat.add_mul_mod_self_left, Nat.mod_eq_of_lt (addW a b).isLt]

/-- `ONE` is the number 1 at every width; at width 0 there is one value only. -/
theorem one_eq_ofNat : one n = 1#(4 * n) := by
  cases n with
  | zero => exact Subsingleton.elim (α := BitVec 0) _ _
  | succ n => exact one_eq n.succ_pos

/-- `NEG_W` is the two's complement of the whole value (R112). -/
theorem negW_eq (b : Mws n) : negW b = -b := by
  rw [negW, addW_eq, one_eq_ofNat, BitVec.neg_eq_not_add]

/-- `SUB_W` is the subtraction of the whole values (R113). -/
theorem subW_eq (a b : Mws n) : subW a b = a - b := by
  rw [subW, addW_eq, negW_eq, BitVec.sub_eq_add_neg]

/-- `DOMBIT` is the least of the signed values, the one whose negation overflows (R10, R112). -/
theorem domBit_eq_intMin (w : Nat) : domBit w = BitVec.intMin w :=
  BitVec.eq_of_toNat_eq (by rw [domBit, BitVec.toNat_ofNat, BitVec.toNat_intMin])

/-- A difference of values is the integer difference modulo `2^w`, also where it is negative. -/
theorem toNat_sub_eq_emod {w : Nat} (a b : BitVec w) :
    ((a - b).toNat : Int) = ((a.toNat : Int) - b.toNat) % 2 ^ w := by
  have h : (2 : Int) ^ w - b.toNat + a.toNat = a.toNat - b.toNat + 2 ^ w := by ring
  rw [BitVec.toNat_sub]
  push_cast [Nat.cast_sub b.isLt.le]
  rw [h, Int.add_emod_right]

end wrapping

/-- Settles O7: the result is `ADD_W`, the addition of the whole registers. -/
theorem addIsModularAddition : Obligations.AddIsModularAddition := by
  intro s rd ra rb
  refine ⟨_, rfl, ?_⟩
  rw [State.complete_getX, State.getX_setX_self]
  refine ⟨wroteOnly_setX_complete s rd _, ?_⟩
  rw [addW_eq, BitVec.toNat_add]

/-- Settles O8: the result is `SUB_W`, the subtraction of the whole registers. -/
theorem subIsModularSubtraction : Obligations.SubIsModularSubtraction := by
  intro s rd ra rb
  refine ⟨_, rfl, ?_⟩
  rw [State.complete_getX, State.getX_setX_self]
  refine ⟨wroteOnly_setX_complete s rd _, ?_⟩
  rw [subW_eq, toNat_sub_eq_emod]

/-- Settles O9: `NEG_W` is the negation of the whole value, which fixes zero and the least signed value. -/
theorem negIsTwosComplement : Obligations.NegIsTwosComplement := by
  intro n b
  refine ⟨rfl, ?_, ?_, ?_⟩
  · rw [negW_eq, BitVec.toNat_neg]
  · rw [negW_eq, neg_zero]
  · rw [negW_eq, domBit_eq_intMin, BitVec.neg_intMin]

/-- Settles O10: on whole values these are laws of modular addition. -/
theorem wrappingArithmeticLaws : Obligations.WrappingArithmeticLaws := by
  intro n a b c
  simp only [addW_eq, subW_eq]
  exact ⟨BitVec.add_comm a b, BitVec.add_assoc a b c, BitVec.add_sub_cancel a b⟩

end Sys2Proof.Machine

/-! SUPPORT. The permutation, the randomness source and the CSRs (spec 43_perm_rand_csr.md R121 to R128): the
draws and the permutation calls of every command, what PERM and RAND write, and which CSR a number names. -/

namespace Sys2Proof.Machine

section ports

variable {s t : State} {draws calls : Nat}

/-- The calls of CipherInit: one for the key and one for each of the k bits of the nonce (R143). -/
theorem State.cipherInit_calls (s : State) (nonce : Word) :
    (s.cipherInit nonce).2.length = s.par.k.toNat + 1 ∧ ∀ c ∈ (s.cipherInit nonce).2, c.2 = Config.P c.1 := by
  obtain ⟨hlength, hanswered⟩ := absorbNonce_calls Config.P Config.nonceInject nonce s.par.k.toNat 0
    (Config.P (shlW (s.key &&& s.kmask) (4 * Config.N - s.par.k.toNat)))
  refine ⟨?_, List.forall_mem_cons.mpr ⟨rfl, hanswered⟩⟩
  exact congrArg (· + 1) hlength

/-- `s` became `t` with `draws` draws, and with permutation calls that `P` answered, `calls` of them if `s`
meets the engine's invariants. -/
def Made (draws calls : Nat) (s t : State) : Prop :=
  t.drawn = s.drawn + draws ∧ ∃ events, t.log = s.log ++ events ∧ (∀ e ∈ events, e.Answered) ∧
    (events.filter PortEvent.isDraw).length = draws ∧
    (s.Inv → (events.filter PortEvent.isCall).length = calls)

/-- Work without draws and without permutation calls. -/
theorem Made.silent (hdrawn : t.drawn = s.drawn) (hlog : t.log = s.log) : Made 0 0 s t :=
  ⟨hdrawn, [], by simp [hlog]⟩

/-- Draws alone (R123). -/
theorem Made.consumeDraws (s : State) (count : Nat) : Made count 0 s (s.consumeDraws count) := by
  refine ⟨rfl, drawEvents s.drawn count, rfl, fun e he => ?_, ?_, fun _ => ?_⟩
  · obtain ⟨i, -, rfl⟩ := List.mem_map.mp he
    trivial
  · simp [drawEvents, List.filter_map, Function.comp_def, PortEvent.isDraw]
  · simp [drawEvents, List.filter_map, Function.comp_def, PortEvent.isCall]

/-- A computation's permutation calls, none having been made before (R63, R121). -/
theorem Made.logCalls {cs : List (Word × Word)} (h : Made draws 0 s t)
    (hanswered : ∀ c ∈ cs, c.2 = Config.P c.1) (hlength : s.Inv → cs.length = calls) :
    Made draws calls s (t.logCalls cs) := by
  obtain ⟨hdrawn, events, hlog, hevents, hdraws, hcalls⟩ := h
  refine ⟨hdrawn, events ++ cs.map fun c => .permCall c.1 c.2, by simp [hlog], ?_, ?_, fun hinv => ?_⟩
  · simp only [List.mem_append, List.mem_map]
    rintro e (he | ⟨c, hc, rfl⟩)
    · exact hevents e he
    · exact hanswered c hc
  · simpa [List.filter_map, Function.comp_def, PortEvent.isDraw] using hdraws
  · simpa [List.filter_map, Function.comp_def, PortEvent.isCall, hcalls hinv] using hlength hinv

/-- One call (R121). -/
theorem Made.permute (h : Made draws 0 s t) (v : Word) :
    Made draws 1 s (t.logCalls (Machine.permute Config.P v).2) :=
  h.logCalls (List.forall_mem_singleton.mpr rfl) fun _ => rfl

/-- The response is neither a draw nor a call. -/
theorem Made.respond (h : Made draws calls s t) (e : Response) : Made draws calls s (t.respond e) := by
  obtain ⟨hdrawn, events, hlog, hevents, hdraws, hcalls⟩ := h
  refine ⟨hdrawn, events ++ [.response e], by simp [hlog], ?_, ?_, fun hinv => ?_⟩
  · simp only [List.mem_append, List.mem_singleton]
    rintro _ (he | rfl)
    · exact hevents _ he
    · trivial
  · simpa [PortEvent.isDraw] using hdraws
  · simpa [PortEvent.isCall] using hcalls hinv

/-- A command ended in `t`: if with success, it made `draws` draws and `calls` calls, and otherwise none. -/
def MadeIfOk (draws calls : Nat) (s t : State) : Prop :=
  Made (if t.err = .ok then draws else 0) (if t.err = .ok then calls else 0) s t

/-- The end of a command that succeeded (R171). -/
theorem Made.complete (h : Made draws calls s t) : MadeIfOk draws calls s t.complete :=
  h.respond .ok

/-- An error comes before any draw or call (R125, R172). -/
theorem MadeIfOk.raise {e : Response} (he : e ≠ .ok) : MadeIfOk draws calls s (s.raise e) := by
  rw [MadeIfOk, State.raise_err, if_neg he, if_neg he]
  exact (Made.silent rfl rfl).respond e

/-- A check that fails raises an error. -/
theorem MadeIfOk.check {c : Prop} [Decidable c] {e : Response} (he : e ≠ .ok)
    (h : ¬c → MadeIfOk draws calls s t) : MadeIfOk draws calls s (if c then s.raise e else t) :=
  iteInduction (fun _ => .raise he) h

/-- The draws and the calls of every command, after its checks in order (R125 and each command's rule). For
PRG.NEXT the invariant gives t ≥ 1, so that the t − 1 rounds after the first call make t calls. -/
theorem exec_madeIfOk {i : Instr} (hexec : exec i s = .next t) :
    MadeIfOk (i.draws s) (i.permCalls s) s t := by
  have silent : Made 0 0 s s := .silent rfl rfl
  cases i with
  | not | and | or | xor | cmpeq | add | sub =>
    cases hexec
    exact silent.complete
  | shl | shr | rotl | rotr | setupAsk | setupDss =>
    cases hexec
    exact .check nofun fun _ => silent.complete
  | rand =>
    cases hexec
    exact (Made.consumeDraws s _).complete
  | perm =>
    cases hexec
    exact (silent.permute _).complete
  | csrw csr =>
    cases hexec
    cases cfgReg? csr with
    | none => exact .raise nofun
    | some c => exact silent.complete
  | csrr rd csr =>
    cases hexec
    cases csr? csr with
    | none => exact .raise nofun
    | some c => exact silent.complete
  | setupDup | setupPrg =>
    cases hexec
    exact .check nofun fun _ => (Made.consumeDraws s _).complete
  | dupReset =>
    cases hexec
    exact .check nofun fun _ => ((Made.consumeDraws s _).permute _).complete
  | dupDuplex | prgRefresh =>
    cases hexec
    exact .check nofun fun _ => (silent.permute _).complete
  | askRekey | dssRekey =>
    cases hexec
    exact .check nofun fun _ => .check nofun fun _ => silent.complete
  | askInit ra | dssInit ra =>
    cases hexec
    obtain ⟨hlength, hanswered⟩ := s.cipherInit_calls (s.getX ra)
    exact .check nofun fun _ => .check nofun fun _ => .check nofun fun _ =>
      (silent.logCalls hanswered fun _ => hlength).complete
  | askNext =>
    cases hexec
    exact .check nofun fun _ => .check nofun fun _ => (silent.permute _).complete
  | dssNext =>
    cases hexec
    refine .check nofun fun _ => .check nofun fun _ => ?_
    exact (silent.logCalls (List.forall_mem_cons.mpr ⟨rfl, List.forall_mem_singleton.mpr rfl⟩)
      fun _ => rfl).complete
  | prgNext =>
    cases hexec
    refine .check nofun fun hmode => ?_
    obtain ⟨hlength, hanswered⟩ :=
      prgTruncate_calls Config.P s.rmask (s.par.t.toNat - 1) (Config.P s.st)
    refine (silent.logCalls (List.forall_mem_cons.mpr ⟨rfl, hanswered⟩) fun hinv => ?_).complete
    obtain ⟨hrounds, -⟩ := hinv.prgSeeds (not_not.mp hmode)
    exact (congrArg (· + 1) hlength).trans (Nat.sub_add_cancel hrounds)

/-- Settles O43: the counter and the record agree on the draws of every command. -/
theorem drawsAreExactlyThoseListed : Obligations.DrawsAreExactlyThoseListed := by
  intro i s t hexec
  obtain ⟨hdrawn, events, hlog, -, hdraws, -⟩ := exec_madeIfOk hexec
  exact ⟨hdrawn, by rw [hlog, List.filter_append, List.length_append, hdraws]⟩

/-- Settles O44: the events that a command adds to the record hold its permutation calls. -/
theorem permutationCallsAreExactlyThoseListed : Obligations.PermutationCallsAreExactlyThoseListed := by
  intro i s t hinv hexec
  obtain ⟨-, events, hlog, hanswered, -, hcalls⟩ := exec_madeIfOk hexec
  exact ⟨events, hlog, hanswered, hcalls hinv⟩

end ports

section csrs

variable {n : CsrNumber} (s : State) (rd : Reg)

/-- The configuration CSRs are those of number 0 to 5 (R27). -/
theorem cfgReg?_eq_none_iff : cfgReg? n = none ↔ 5 < n.val := by
  revert n
  decide

/-- The unassigned CSRs (R25, R27). -/
theorem csr?_eq_none_iff : csr? n = none ↔ n.val = 6 ∨ n.val = 7 ∨ 12 ≤ n.val := by
  revert n
  decide

/-- CSRW of a number that names no configuration CSR (R126). -/
theorem exec_csrw_of_none (h : cfgReg? n = none) (v : BitVec 16) :
    exec (.csrw n v) s = .next (s.raise .illegalCommand) := by
  simp [exec, execCsrw, h]

/-- CSRR of an unassigned CSR (R127). -/
theorem exec_csrr_of_none (h : csr? n = none) :
    exec (.csrr rd n) s = .next (s.raise .illegalCommand) := by
  simp [exec, execCsrr, h]

/-- CSRR of an assigned CSR (R127). -/
theorem exec_csrr_of_some {c : Csr} (h : csr? n = some c) :
    exec (.csrr rd n) s = .next (s.setX rd ((s.readCsr c).setWidth Config.W)).complete := by
  simp [exec, execCsrr, h]

/-- Zero-extending a CSR to a register keeps its value (R127). -/
theorem toNat_csr_setWidth (v : BitVec 16) : (v.setWidth Config.W).toNat = v.toNat :=
  BitVec.toNat_setWidth_of_le ((by decide : 16 ≤ 32).trans Config.thirtyTwo_le_W)

/-- A CSR is wide enough for N (R29). -/
theorem toNat_readCsr_hwN : (s.readCsr .hwN).toNat = Config.N :=
  Nat.mod_eq_of_lt (Config.N_le.trans_lt (by decide))

/-- A CSR is wide enough for UMAX (R29). -/
theorem toNat_readCsr_hwUmax : (s.readCsr .hwUmax).toNat = Config.UMAX :=
  Nat.mod_eq_of_lt (Config.UMAX_bounds.2.trans_lt (by decide))

/-- A CSR is wide enough for SMAX (R29). -/
theorem toNat_readCsr_hwSmax : (s.readCsr .hwSmax).toNat = Config.SMAX :=
  Nat.mod_eq_of_lt (Config.SMAX_bounds.2.trans_lt (by decide))

/-- Settles O14: the numbers 0 to 5 name the configuration CSRs, and no other number does. -/
theorem csrwWritesConfigurationOnly : Obligations.CsrwWritesConfigurationOnly := fun s v =>
  ⟨rfl, rfl, rfl, rfl, rfl, rfl, fun _ hn =>
    ⟨_, exec_csrw_of_none s (cfgReg?_eq_none_iff.mpr hn) v, rfl⟩⟩

/-- Settles O15: each number of the table names a CSR that holds the value of the table. -/
theorem csrrReadsEveryAssignedCsr : Obligations.CsrrReadsEveryAssignedCsr := by
  intro s rd n
  refine ⟨fun v hv => ?_, fun hn => ⟨_, exec_csrr_of_none s rd (csr?_eq_none_iff.mpr hn), rfl⟩⟩
  obtain ⟨c, hc, rfl⟩ : ∃ c, csr? n = some c ∧ (s.readCsr c).toNat = v := by
    simp only [List.mem_cons, List.not_mem_nil, or_false, Prod.mk.injEq] at hv
    obtain ⟨hn, rfl⟩ | ⟨hn, rfl⟩ | ⟨hn, rfl⟩ | ⟨hn, rfl⟩ | ⟨hn, rfl⟩ | ⟨hn, rfl⟩ | ⟨hn, rfl⟩ |
      ⟨hn, rfl⟩ | ⟨hn, rfl⟩ | ⟨hn, rfl⟩ := hv
    · exact ⟨.cfg .r, by simp [csr?, cfgReg?, hn], rfl⟩
    · exact ⟨.cfg .k, by simp [csr?, cfgReg?, hn], rfl⟩
    · exact ⟨.cfg .u, by simp [csr?, cfgReg?, hn], rfl⟩
    · exact ⟨.cfg .alpha, by simp [csr?, cfgReg?, hn], rfl⟩
    · exact ⟨.cfg .t, by simp [csr?, cfgReg?, hn], rfl⟩
    · exact ⟨.cfg .s, by simp [csr?, cfgReg?, hn], rfl⟩
    · exact ⟨.status, by simp [csr?, cfgReg?, hn], rfl⟩
    · exact ⟨.hwN, by simp [csr?, cfgReg?, hn], toNat_readCsr_hwN s⟩
    · exact ⟨.hwUmax, by simp [csr?, cfgReg?, hn], toNat_readCsr_hwUmax s⟩
    · exact ⟨.hwSmax, by simp [csr?, cfgReg?, hn], toNat_readCsr_hwSmax s⟩
  refine ⟨_, exec_csrr_of_some s rd hc, ?_⟩
  rw [State.complete_getX, State.getX_setX_self]
  exact ⟨wroteOnly_setX_complete s rd _, toNat_csr_setWidth _⟩

end csrs

/-- Settles O12: the one call is the one event, and its answer is what is written. -/
theorem permAppliesThePermutationOnce : Obligations.PermAppliesThePermutationOnce := fun s _ _ =>
  ⟨_, rfl, State.getX_setX_self _ _ _, fun _ hr => State.getX_setX_ne _ _ hr, by
    simp [State.complete, State.respond, State.setX, State.logCalls, permute]⟩

/-- The four draws of one sample, in order (R123, R124). -/
theorem drawEvents_four (d : Nat) :
    drawEvents d 4 = [.draw (Config.draw d), .draw (Config.draw (d + 1)), .draw (Config.draw (d + 2)),
      .draw (Config.draw (d + 3))] := rfl

/-- Settles O13: the sample's limbs are the four draws in order. -/
theorem randWritesFourDraws : Obligations.RandWritesFourDraws := by
  intro s rd
  refine ⟨_, rfl, fun i => ?_, fun _ hr => State.getX_setX_ne _ _ hr, ?_⟩
  · rw [State.complete_getX, State.getX_setX_self]
    exact limb_sampleW Config.draw s.drawn i
  · simp [State.complete, State.respond, State.setX, State.consumeDraws, drawEvents_four]

end Sys2Proof.Machine

/-! SUPPORT. The Duplex construction (spec 44_duplex.md R130 to R134): what the slots of the engine hold after
SETUP.DUP, and the bits of the values that DUP.RESET and DUP.DUPLEX permute. -/

namespace Sys2Proof.Machine

section slots

variable {s t : State} (i : Nat)

/-- `MASK(k)` as a number (R10). -/
theorem toNat_mask {w k : Nat} (hk : k ≤ w) : (mask w k).toNat = 2 ^ k - 1 := by
  have hlt : 2 ^ k - 1 < 2 ^ w :=
    (Nat.sub_lt (Nat.two_pow_pos k) Nat.one_pos).trans_le (Nat.pow_le_pow_right Nat.two_pos hk)
  rw [mask, BitVec.toNat_ofNat, Nat.mod_eq_of_lt hlt]

/-- A seed slot that EngineClear cleared reads 0 (R41). -/
theorem State.seedAt_of_cleared (h : t.seeds = Vector.replicate Config.SMAX 0) : t.seedAt i = 0 := by
  rw [State.seedAt, h, Vector.getElem?_replicate]
  split <;> rfl

/-- The keys below CFG_U are the samples, masked to k bits (R130). -/
theorem State.keyAt_sampled (hkeys : t.keys = s.sampledKeys) (hu : s.cfg.u.toNat ≤ Config.UMAX)
    (hi : i < s.cfg.u.toNat) : t.keyAt i = s.sample i &&& mask Config.W s.cfg.k.toNat := by
  rw [State.keyAt, hkeys, getElem?_sampledKeys s (hi.trans_le hu), if_pos hi]
  rfl

/-- The keys from CFG_U on are 0 (R130). -/
theorem State.keyAt_unsampled (hkeys : t.keys = s.sampledKeys) (hi : s.cfg.u.toNat ≤ i) :
    t.keyAt i = 0 := by
  rw [State.keyAt, hkeys]
  rcases Nat.lt_or_ge i Config.UMAX with hslot | hnone
  · rw [getElem?_sampledKeys s hslot, if_neg (Nat.not_lt.mpr hi)]
    rfl
  · rw [Vector.getElem?_eq_none hnone]
    rfl

/-- A masked sample is limb by limb the masked draws (R124). -/
theorem State.limb_sample_and (m : Word) (l : Fin 4) :
    limb (s.sample i &&& m) l = Config.draw (s.drawn + 4 * i + l.val) &&& limb m l := by
  rw [limb_and, State.sample, limb_sampleW]

end slots

section inputs

variable {n : Nat}

/-- DUP.RESET permutes key OR IV, bit `m` moved to place `(m + alpha mod W) mod W` (R132). -/
theorem getLsbD_dupResetInput (key iv : Mws n) (alpha : Nat) {m : Nat} (hm : m < 4 * n) :
    (dupResetInput key iv alpha).getLsbD ((m + alpha % (4 * n)) % (4 * n)) = (key ||| iv).getLsbD m :=
  getLsbD_rotlW _ (Nat.mod_lt _ (Nat.zero_lt_of_lt hm)) hm

/-- DUP.DUPLEX permutes the old state, its rate bits cleared if `f` is set, XORed with the input (R133). -/
theorem getLsbD_duplexInput (st rmask input : Mws n) (f : Bool) (m : Nat) :
    (duplexInput st rmask input f).getLsbD m =
      ((st.getLsbD m && !(f && rmask.getLsbD m)) ^^ input.getLsbD m) := by
  rw [duplexInput, BitVec.getLsbD_xor]
  cases f with
  | false => simp
  | true =>
    rcases Nat.lt_or_ge m (4 * n) with hm | hm
    · simp [hm]
    · simp [BitVec.getLsbD_of_ge st m hm]

end inputs

/-- Settles O17: with its checks passed, SETUP.DUP latches the parameters over a cleared engine. -/
theorem setupDupBuildsTheInstance : Obligations.SetupDupBuildsTheInstance := by
  intro s hr0 hrW hk0 hkW hu0 huMax
  have hvalid : ¬(s.rateInvalid || s.keyWidthInvalid || s.keyCountInvalid) = true := by
    simp only [Bool.not_eq_true, Bool.or_eq_false_iff, State.rateInvalid_eq_false_iff,
      State.keyWidthInvalid_eq_false_iff, State.keyCountInvalid_eq_false_iff]
    exact ⟨⟨⟨hr0, hrW⟩, hk0, hkW⟩, hu0, huMax⟩
  refine ⟨_, congrArg Host.Outcome.next (if_neg hvalid), rfl, rfl, rfl, toNat_mask hrW, toNat_mask hkW,
    rfl, rfl, rfl, rfl, fun i => State.seedAt_of_cleared i rfl, fun i hi l => ?_,
    fun i hi => State.keyAt_unsampled i rfl hi, rfl, rfl, rfl, rfl, rfl, rfl, rfl⟩
  rw [State.keyAt_sampled i rfl huMax hi]
  exact State.limb_sample_and i _ l

/-- Settles O21: in mode DUP the check passes, and the value permuted is key OR IV rotated. -/
theorem dupResetReseedsFromKeyAndIv : Obligations.DupResetReseedsFromKeyAndIv := by
  intro s ra hmode
  refine ⟨_, dupResetInput (s.keyAt ((s.getX ra).toNat % s.par.u.toNat))
    (sampleW Config.draw s.drawn &&& ~~~s.kmask) s.par.alpha.toNat,
    congrArg Host.Outcome.next (if_neg (not_not.mpr hmode)), fun m hm => ?_, ?_⟩
  · exact getLsbD_dupResetInput _ _ _ hm
  · simp [State.complete, State.respond, State.consumeDraws, State.logCalls, permute, State.sample]

/-- Settles O22: in mode DUP the check passes, and `rd` is written last, so `rd = ra` is no special case. -/
theorem duplexOutputsThenAbsorbs : Obligations.DuplexOutputsThenAbsorbs := by
  intro s rd ra f hmode
  refine ⟨_, duplexInput s.st s.rmask (s.getX ra) f,
    congrArg Host.Outcome.next (if_neg (not_not.mpr hmode)), fun m => ?_, ?_, fun r hr => ?_, ?_⟩
  · exact getLsbD_duplexInput _ _ _ f m
  · exact State.getX_setX_self _ rd _
  · exact State.getX_setX_ne _ _ hr
  · simp [State.complete, State.respond, State.setX, State.logCalls, permute]

end Sys2Proof.Machine

/-! SUPPORT. The stream ciphers (spec 45_asakey.md R140 to R147, 46_dss.md R150 to R156): what CipherInit
presents to the permutation, what each command of a session does once its checks have passed, how PHASE
moves, and ENCRYPT. -/

namespace Sys2Proof.Machine

section cipherInit

variable {n : Nat} (P : Mws n → Mws n) (inject : NonceInject) (key nonce : Mws n)

/-- The state bit that nonce bit `i` is XORed into (R143). -/
def noncePlace : NonceInject → Nat → Nat
  | .bit0, _ => 0
  | .bitI, i => i

/-- What nonce bit `i` XORs into the state is that bit, at its place (R143). -/
theorem getLsbD_nonceWord {i b : Nat} (hb : b < 4 * n) :
    (nonceWord inject nonce i).getLsbD b =
      (nonce.getLsbD i && decide (b = noncePlace inject i)) := by
  have hbit : ∀ m, (shrW nonce i &&& one n).getLsbD m = (nonce.getLsbD i && decide (m = 0)) := by
    intro m
    rw [shrW_eq, one_eq_ofNat, BitVec.getLsbD_and, BitVec.getLsbD_ushiftRight, BitVec.getLsbD_one,
      decide_eq_true (Nat.zero_lt_of_lt hb), Bool.true_and]
    by_cases hm : m = 0
    · simp [hm]
    · simp [hm]
  cases inject with
  | bit0 => exact hbit b
  | bitI =>
    simp only [nonceWord, noncePlace, shlW_eq, BitVec.getLsbD_shiftLeft, hbit, hb, decide_true,
      Bool.true_and]
    rcases Nat.lt_trichotomy b i with h | h | h
    · simp [h, h.ne]
    · simp [h]
    · simp [h.ne', Nat.sub_eq_zero_iff_le, h]

/-- Call `j + 1` presents the answer of call `j` with a nonce bit XORed in, where the call before the loop
was answered by `s` (R143). -/
theorem absorbNonce_chain (todo i : Nat) (x s : Mws n) {j : Nat} {c d : Mws n × Mws n}
    (hc : ((x, s) :: (absorbNonce P inject nonce todo i s).2)[j]? = some c)
    (hd : ((x, s) :: (absorbNonce P inject nonce todo i s).2)[j + 1]? = some d) :
    d.1 = c.2 ^^^ nonceWord inject nonce (i + j) := by
  induction todo generalizing i x s j with
  | zero => simp [absorbNonce] at hd
  | succ todo ih =>
    cases j with
    | zero =>
      cases hc
      cases hd
      rfl
    | succ j =>
      rw [← Nat.add_assoc, Nat.add_right_comm]
      exact ih (i + 1) _ _ hc hd

/-- The loop ends with the answer of its last call (R143). -/
theorem absorbNonce_last (todo i : Nat) (x s : Mws n) {c : Mws n × Mws n}
    (hc : ((x, s) :: (absorbNonce P inject nonce todo i s).2)[todo]? = some c) :
    (absorbNonce P inject nonce todo i s).1 = c.2 := by
  induction todo generalizing i x s with
  | zero =>
    cases hc
    rfl
  | succ todo ih => exact ih (i + 1) _ _ hc

/-- The first value presented: the low k bits of the key, at the top (R143). -/
theorem toNat_shlW_and_mask {k : Nat} (hk : k ≤ 4 * n) :
    (shlW (key &&& mask (4 * n) k) (4 * n - k)).toNat = key.toNat % 2 ^ k * 2 ^ (4 * n - k) := by
  have hlt : key.toNat % 2 ^ k * 2 ^ (4 * n - k) < 2 ^ (4 * n) := calc
    _ < 2 ^ k * 2 ^ (4 * n - k) :=
      Nat.mul_lt_mul_of_pos_right (Nat.mod_lt _ (Nat.two_pow_pos k)) (Nat.two_pow_pos _)
    _ = 2 ^ (4 * n) := by rw [← pow_add, Nat.add_sub_cancel' hk]
  rw [toNat_shlW, BitVec.toNat_and, toNat_mask hk, Nat.and_two_pow_sub_one_eq_mod, Nat.mod_eq_of_lt hlt]

/-- A value whose bits below `k` are replaced (R143). -/
theorem getLsbD_replaceLow (a b : Mws n) (k m : Nat) :
    ((a &&& ~~~mask (4 * n) k) ||| (b &&& mask (4 * n) k)).getLsbD m =
      if m < k then b.getLsbD m else a.getLsbD m := by
  simp only [BitVec.getLsbD_or, BitVec.getLsbD_and, BitVec.getLsbD_not, getLsbD_mask]
  rcases Nat.lt_or_ge m (4 * n) with hm | hm
  · by_cases hk : m < k
    · simp [hm, hk]
    · simp [hm, hk]
  · simp [hm]

end cipherInit

/-- Settles O25: the calls are the key's and then those of the loop over the nonce bits. -/
theorem cipherInitAbsorbsKeyThenNonceBits : Obligations.CipherInitAbsorbsKeyThenNonceBits := by
  rintro n P inject k key nonce v calls - hk ⟨⟩
  obtain ⟨hlength, hanswered⟩ := absorbNonce_calls P inject nonce k 0
    (P (shlW (key &&& mask (4 * n) k) (4 * n - k)))
  refine ⟨congrArg (· + 1) hlength, List.forall_mem_cons.mpr ⟨rfl, hanswered⟩, ?_, ?_, ?_, ?_, ?_⟩
  · rintro c ⟨⟩
    exact toNat_shlW_and_mask key hk
  · intro i _ c d hc hd b hb
    rw [absorbNonce_chain P inject nonce k 0 _ _ hc hd, BitVec.getLsbD_xor, Nat.zero_add,
      getLsbD_nonceWord inject nonce hb]
    cases inject with
    | bit0 => rfl
    | bitI => rfl
  · intro b hb
    exact (getLsbD_replaceLow _ nonce k b).trans (if_pos hb)
  · intro c hc b hb
    rw [← absorbNonce_last P inject nonce k 0 _ _ hc]
    exact (getLsbD_replaceLow _ nonce k b).trans (if_neg (Nat.not_lt.mpr hb))
  · rintro rfl
    apply BitVec.eq_of_getLsbD_eq
    intro b hb
    exact (getLsbD_replaceLow _ nonce _ b).trans (if_pos hb)

section setup

variable {t : State} (i : Nat)

/-- A key slot that EngineClear cleared reads 0 (R41). -/
theorem State.keyAt_of_cleared (h : t.keys = Vector.replicate Config.UMAX 0) : t.keyAt i = 0 := by
  rw [State.keyAt, h, Vector.getElem?_replicate]
  split
  · rfl
  · rfl

/-- Settles O18: with its checks passed, either SETUP latches r and k over a cleared engine. -/
theorem setupAskAndDssBuildTheInstance : Obligations.SetupAskAndDssBuildTheInstance := by
  intro s hr0 hrW hk0 hkW im him
  have hvalid : ¬(s.rateInvalid || s.keyWidthInvalid) = true := by
    simp only [Bool.not_eq_true, Bool.or_eq_false_iff, State.rateInvalid_eq_false_iff,
      State.keyWidthInvalid_eq_false_iff]
    exact ⟨⟨hr0, hrW⟩, hk0, hkW⟩
  have hexec : exec im.1 s = .next (s.setupCipher im.2).complete := by
    simp only [List.mem_cons, List.not_mem_nil, or_false] at him
    obtain rfl | rfl := him
    · exact congrArg Host.Outcome.next (if_neg hvalid)
    · exact congrArg Host.Outcome.next (if_neg hvalid)
  exact ⟨_, hexec, rfl, rfl, rfl, toNat_mask hrW, toNat_mask hkW, rfl, rfl, rfl, rfl,
    fun i => State.keyAt_of_cleared i rfl, fun i => State.seedAt_of_cleared i rfl,
    rfl, rfl, rfl, rfl, rfl, rfl, rfl⟩

end setup

section session

variable {c : Cipher} {s : State} {r : Reg}

/-- The work of REKEY (R141, R151). -/
def Cipher.rekeyed : Cipher → Word → State → State
  | .ask, key, s => { s with key := key, st := 0, phase := .keyed }
  | .dss, key, s => { s with key := key, st := 0, dn := 0, phase := .keyed }

/-- The work of INIT (R142, R152). -/
def Cipher.initialized : Cipher → Word → State → State
  | .ask, nonce, s =>
    let p := s.cipherInit nonce
    { s.logCalls p.2 with st := p.1, phase := .initialized }
  | .dss, nonce, s =>
    let p := s.cipherInit nonce
    { s.logCalls p.2 with st := upBranch p.1, dn := downBranch p.1, phase := .initialized }

/-- The chunk that NEXT outputs (R144, R153). -/
def Cipher.chunk : Cipher → State → Word
  | .ask, s => Config.P s.st &&& s.rmask
  | .dss, s => Config.P s.dn &&& s.rmask

/-- The work of NEXT on the engine (R144, R153, R154). -/
def Cipher.advanced : Cipher → State → State
  | .ask, s => { s.logCalls [(s.st, Config.P s.st)] with st := Config.P s.st }
  | .dss, s =>
    let v := dssShared (Config.P s.st) (Config.P s.dn) s.rmask
    { s.logCalls [(s.st, Config.P s.st), (s.dn, Config.P s.dn)] with
      st := upBranch v, dn := downBranch v }

/-- The state in which NEXT into `r` ends. -/
def Cipher.afterNext (c : Cipher) (r : Reg) (s : State) : State :=
  ((c.advanced s).setX r (c.chunk s)).complete

/-- The test for a zero register fails on one that is not zero (R180). -/
theorem not_eqW_zero {v : Word} (h : v ≠ 0) : ¬eqW v 0 = true :=
  fun hzero => h ((eqW_iff v 0).mp hzero)

/-- REKEY of a nonzero register in the cipher's mode (R141, R151). -/
theorem Cipher.exec_rekey (hmode : s.mode = c.mode) (hkey : s.getX r ≠ 0) :
    exec (c.rekey r) s = .next (c.rekeyed (s.getX r) s).complete := by
  cases c with
  | ask | dss =>
    exact congrArg Host.Outcome.next
      ((if_neg (not_not.mpr hmode)).trans (if_neg (not_eqW_zero hkey)))

/-- INIT of a nonzero register in the cipher's mode with a key present (R142, R152). -/
theorem Cipher.exec_init (hmode : s.mode = c.mode) (hphase : s.phase ≠ .uninit) (hnonce : s.getX r ≠ 0) :
    exec (c.init r) s = .next (c.initialized (s.getX r) s).complete := by
  cases c with
  | ask | dss =>
    exact congrArg Host.Outcome.next
      ((if_neg (not_not.mpr hmode)).trans ((if_neg hphase).trans (if_neg (not_eqW_zero hnonce))))

/-- NEXT in the cipher's mode in a running session (R144, R153). -/
theorem Cipher.exec_next (hmode : s.mode = c.mode) (hphase : s.phase = .initialized) :
    exec (c.next r) s = .next (c.afterNext r s) := by
  cases c with
  | ask | dss =>
    exact congrArg Host.Outcome.next
      ((if_neg (not_not.mpr hmode)).trans (if_neg (not_not.mpr hphase)))

/-- Below bit W-1 both branches of a DSS value are the value (R152, R153). -/
theorem branches_getLsbD_of_lt (v : Word) {b : Nat} (hb : b < Config.W - 1) :
    (upBranch v).getLsbD b = v.getLsbD b ∧ (downBranch v).getLsbD b = v.getLsbD b := by
  have hdown : (downBranch v).getLsbD b = v.getLsbD b := by
    rw [downBranch, BitVec.getLsbD_or, getLsbD_domBit, decide_eq_false (by omega : ¬Config.W - 1 = b),
      Bool.and_false, Bool.or_false]
  obtain ⟨-, -, hsame⟩ := upBranch_downBranch_bits v
  exact ⟨(hsame b hb).trans hdown, hdown⟩

/-- Settles O23: the checks of MODE and of the register pass. -/
theorem rekeyStoresKeyAndDropsSession : Obligations.RekeyStoresKeyAndDropsSession := fun _ _ hkey =>
  ⟨fun hmode => ⟨_, Cipher.exec_rekey (c := .ask) hmode hkey, rfl⟩,
    fun hmode => ⟨_, Cipher.exec_rekey (c := .dss) hmode hkey, rfl⟩⟩

/-- Settles O24: the checks pass, and the two branches are CipherInit's value with bit W-1 forced. -/
theorem initStartsTheSession : Obligations.InitStartsTheSession := by
  rintro s ra hphase hnonce v calls ⟨⟩
  refine ⟨fun hmode => ⟨_, Cipher.exec_init (c := .ask) hmode hphase hnonce, rfl⟩, fun hmode => ?_⟩
  obtain ⟨hup, hdown, -⟩ := upBranch_downBranch_bits (s.cipherInit (s.getX ra)).1
  exact ⟨_, Cipher.exec_init (c := .dss) hmode hphase hnonce,
    fun b hb => branches_getLsbD_of_lt _ hb, hup, hdown, rfl⟩

/-- Settles O26: the checks pass, and `rd` gets the rate of the new ST. -/
theorem askNextSqueezesAfterPermuting : Obligations.AskNextSqueezesAfterPermuting := by
  intro s rd hmode hphase
  refine ⟨_, Cipher.exec_next (c := .ask) hmode hphase, State.getX_setX_self _ rd _,
    fun r hr => State.getX_setX_ne _ _ hr, ?_⟩
  simp [Cipher.afterNext, Cipher.advanced, State.complete, State.respond, State.setX, State.logCalls]

end session

end Sys2Proof.Machine

namespace Sys2Proof

/-- PHASE after the command succeeded, from PHASE before it (R147, R156). -/
def Instr.phaseAfter : Instr → Machine.Phase → Machine.Phase
  | .setupDup, _ | .setupAsk, _ | .setupDss, _ | .setupPrg, _ => .uninit
  | .askRekey _, _ | .dssRekey _, _ => .keyed
  | .askInit _, _ | .dssInit _, _ => .initialized
  | _, phase => phase

/-- The PHASEs in which the command can succeed (R178, R179). -/
def Instr.phaseAllowed : Instr → Machine.Phase → Prop
  | .askInit _, phase | .dssInit _, phase => phase ≠ .uninit
  | .askNext _, phase | .dssNext _, phase => phase = .initialized
  | _, _ => True

end Sys2Proof

namespace Sys2Proof.Machine

section phase

variable {i : Instr} {s t : State}

/-- From `s` the command `i` ended in `t`: with an error, and then the engine is as it was, or with success,
and then in its MODE and in a PHASE that allows it. -/
def PhaseStep (i : Instr) (s t : State) : Prop :=
  (t.err ≠ .ok → SameEngine s t) ∧
    (t.err = .ok → (∀ m, i.sessionMode = some m → s.mode = m) ∧ i.phaseAllowed s.phase ∧
      t.phase = i.phaseAfter s.phase)

/-- A check that fails raises an error, which keeps the engine (R172). -/
theorem PhaseStep.check {c : Prop} [Decidable c] {e : Response} (he : e ≠ .ok)
    (h : ¬c → PhaseStep i s t) : PhaseStep i s (if c then s.raise e else t) :=
  iteInduction (fun _ => ⟨fun _ => SameEngine.refl s, fun hok => absurd hok he⟩) h

/-- The end of a command that succeeded (R171). -/
theorem PhaseStep.complete (hmode : ∀ m, i.sessionMode = some m → s.mode = m)
    (hallowed : i.phaseAllowed s.phase) (hphase : t.phase = i.phaseAfter s.phase) :
    PhaseStep i s t.complete :=
  ⟨fun herr => absurd rfl herr, fun _ => ⟨hmode, hallowed, hphase⟩⟩

/-- A command that works in every MODE and writes no engine register. -/
theorem PhaseStep.of_sameEngine (h : SameEngine s t) (hmode : i.sessionMode = none)
    (hallowed : i.phaseAllowed s.phase) (hafter : i.phaseAfter s.phase = s.phase) : PhaseStep i s t := by
  have ⟨_, hphase, _⟩ := h
  exact ⟨fun _ => h, fun _ =>
    ⟨fun _ hm => absurd (hmode.symm.trans hm) nofun, hallowed, hphase.trans hafter.symm⟩⟩

/-- The check of MODE, and then what the session command of that mode does (R177). -/
theorem PhaseStep.checkMode {m : Mode} (hm : i.sessionMode = some m)
    (h : (∀ m, i.sessionMode = some m → s.mode = m) → PhaseStep i s t) :
    PhaseStep i s (if s.mode ≠ m then s.raise .notSetup else t) :=
  .check nofun fun hmode => h fun _ hm' => (not_not.mp hmode).trans (Option.some.inj (hm.symm.trans hm'))

/-- Every command ends so. Each arm names the checks of the command in order. -/
theorem exec_phaseStep (hexec : exec i s = .next t) : PhaseStep i s t := by
  cases i with
  | not | and | or | xor | cmpeq | shl | shr | rotl | rotr | add | sub
  | rand | perm | csrw | csrr =>
    exact .of_sameEngine (exec_sameEngine hexec rfl rfl) rfl trivial rfl
  | setupDup | setupAsk | setupDss | setupPrg =>
    cases hexec
    exact .check nofun fun _ => .complete nofun trivial rfl
  | dupReset | dupDuplex | prgRefresh | prgNext =>
    cases hexec
    exact .checkMode rfl fun hmode => .complete hmode trivial rfl
  | askRekey | dssRekey =>
    cases hexec
    exact .checkMode rfl fun hmode => .check nofun fun _ => .complete hmode trivial rfl
  | askInit | dssInit =>
    cases hexec
    exact .checkMode rfl fun hmode => .check nofun fun hphase => .check nofun fun _ =>
      .complete hmode hphase rfl
  | askNext | dssNext =>
    cases hexec
    exact .checkMode rfl fun hmode => .check nofun fun hphase =>
      .complete hmode (not_not.mp hphase) rfl

/-- In a cipher's mode the commands that write PHASE are the SETUPs and that cipher's REKEY and INIT. -/
theorem phaseAfter_eq_self {c : Cipher} (hmode : ∀ m, i.sessionMode = some m → c.mode = m)
    (hsetup : i.isSetup = false) (hother : ∀ r, i ≠ c.rekey r ∧ i ≠ c.init r) (phase : Phase) :
    i.phaseAfter phase = phase := by
  cases i with
  | setupDup | setupAsk | setupDss | setupPrg => cases hsetup
  | askRekey r =>
    cases c with
    | ask => exact absurd rfl (hother r).1
    | dss => exact nomatch hmode _ rfl
  | dssRekey r =>
    cases c with
    | ask => exact nomatch hmode _ rfl
    | dss => exact absurd rfl (hother r).1
  | askInit r =>
    cases c with
    | ask => exact absurd rfl (hother r).2
    | dss => exact nomatch hmode _ rfl
  | dssInit r =>
    cases c with
    | ask => exact nomatch hmode _ rfl
    | dss => exact absurd rfl (hother r).2
  | _ => rfl

/-- Settles O28: what each command does to PHASE, read off for the commands of the cipher. -/
theorem cipherPhaseTransitions : Obligations.CipherPhaseTransitions := by
  intro c i s t hmode hexec
  obtain ⟨hfail, hdone⟩ := exec_phaseStep hexec
  refine ⟨hfail, fun hok => ?_⟩
  obtain ⟨hsession, hallowed, hphase⟩ := hdone hok
  refine ⟨fun hsetup => ?_, ?_, ?_, ?_, fun hsetup hother => ?_⟩
  · cases i with
    | setupDup | setupAsk | setupDss | setupPrg => exact hphase
    | _ => cases hsetup
  · rintro r rfl
    cases c with
    | ask | dss => exact hphase
  · rintro r rfl
    cases c with
    | ask | dss => exact ⟨hallowed, hphase⟩
  · rintro r rfl
    cases c with
    | ask | dss => exact ⟨hallowed, hphase.trans hallowed⟩
  · have hsession' : ∀ m, i.sessionMode = some m → c.mode = m :=
      fun m hm => hmode.symm.trans (hsession m hm)
    exact hphase.trans (phaseAfter_eq_self hsession' hsetup hother _)

end phase

section engineCopy

/-- `s` with the engine registers of another state. -/
def State.withEngine (s engine : State) : State :=
  { engine with
    x := s.x, eqFlag := s.eqFlag, err := s.err, cfg := s.cfg, inbox := s.inbox, drawn := s.drawn
    log := s.log }

/-- A state with the same engine is itself with that engine. -/
theorem SameEngine.eq_withEngine {s t : State} (h : SameEngine s t) : t = t.withEngine s := by
  obtain ⟨hmode, hphase, hpar, hrmask, hkmask, hst, hdn, hkey, hkeys, hseeds, hj⟩ := h
  simp only [State.withEngine, ← hmode, ← hphase, ← hpar, ← hrmask, ← hkmask, ← hst, ← hdn, ← hkey,
    ← hkeys, ← hseeds, ← hj]

end engineCopy

section encrypt

variable {c : Cipher} {xk xn xt : Reg} {s t : State} {data : List Byte} {count : Nat}

/-- A session of the cipher runs, so that its NEXT succeeds. -/
def Cipher.Running (c : Cipher) (s : State) : Prop :=
  s.mode = c.mode ∧ s.phase = .initialized

/-- NEXT leaves a running session running (R147, R156). -/
theorem Cipher.Running.afterNext (h : c.Running s) : c.Running (c.afterNext xt s) := by
  cases c with
  | ask | dss => exact h

/-- Whether a session runs is read off the engine. -/
theorem Cipher.Running.of_sameEngine (h : c.Running s) (hsame : SameEngine s t) : c.Running t := by
  rw [hsame.eq_withEngine]
  exact h

/-- NEXT outputs a chunk that the engine alone fixes. -/
theorem Cipher.chunk_congr (hsame : SameEngine s t) : c.chunk s = c.chunk t := by
  rw [hsame.eq_withEngine]
  cases c with
  | ask | dss => rfl

/-- NEXT takes the engine to one that the engine alone fixes. -/
theorem Cipher.afterNext_congr (hsame : SameEngine s t) :
    SameEngine (c.afterNext xt s) (c.afterNext xt t) := by
  rw [hsame.eq_withEngine]
  cases c with
  | ask | dss => exact SameEngine.refl _

/-- INIT with the same nonce takes the engine to one that the engine alone fixes. -/
theorem Cipher.initialized_congr (hsame : SameEngine s t) (nonce : Word) :
    SameEngine (c.initialized nonce s) (c.initialized nonce t) := by
  rw [hsame.eq_withEngine]
  cases c with
  | ask | dss => exact SameEngine.refl _

/-- One round of the loop of R146 in a running session. -/
theorem collectChunks_succ (h : c.Running s) :
    collectChunks c xt (count + 1) s =
      (c.chunk s :: (collectChunks c xt count (c.afterNext xt s)).1,
        (collectChunks c xt count (c.afterNext xt s)).2) := by
  obtain ⟨hmode, hphase⟩ := h
  have hissue : issue (c.next xt) s = c.afterNext xt s := issue_of_next (Cipher.exec_next hmode hphase)
  have hok : (c.afterNext xt s).err = .ok := rfl
  have hget : (c.afterNext xt s).getX xt = c.chunk s := State.getX_setX_self _ xt _
  rw [collectChunks, hissue]
  simp only [hok, hget, if_true]

/-- The chunks of a running session are fixed by the engine alone (R146). -/
theorem collectChunks_fst_congr (h : c.Running s) (hsame : SameEngine s t) :
    (collectChunks c xt count s).1 = (collectChunks c xt count t).1 := by
  induction count generalizing s t with
  | zero => rfl
  | succ count ih =>
    rw [collectChunks_succ h, collectChunks_succ (h.of_sameEngine hsame)]
    exact congrArg₂ List.cons (Cipher.chunk_congr hsame) (ih h.afterNext (Cipher.afterNext_congr hsame))

/-- From `s` to `t` commands of the cipher succeeded that wrote no general register but `xt` and of the
engine nothing but what REKEY writes anew. -/
structure Cipher.Worked (c : Cipher) (xt : Reg) (s t : State) : Prop where
  err : t.err = .ok
  getX : ∀ r, r ≠ xt → t.getX r = s.getX r
  engineKept : ∀ key, SameEngine (c.rekeyed key s) (c.rekeyed key t)

/-- NEXT into `xt` is such a command. -/
theorem Cipher.Worked.afterNext (h : c.Worked xt s t) : c.Worked xt s (c.afterNext xt t) where
  err := rfl
  getX r hr := by
    have hnext : (c.afterNext xt t).getX r = (c.advanced t).getX r := State.getX_setX_ne _ _ hr
    have hadvanced : (c.advanced t).getX r = t.getX r := by
      cases c with
      | ask | dss => rfl
    rw [hnext, hadvanced, h.getX r hr]
  engineKept := by
    have hkept := h.engineKept
    cases c with
    | ask | dss => exact hkept

/-- The loop of R146 in a running session issues such commands only. -/
theorem Cipher.Worked.collectChunks (hrun : c.Running t) (h : c.Worked xt s t) :
    c.Worked xt s (collectChunks c xt count t).2 := by
  induction count generalizing t with
  | zero => exact h
  | succ count ih =>
    rw [collectChunks_succ hrun]
    exact ih hrun.afterNext h.afterNext

/-- REKEY leaves MODE as it is (R141, R151). -/
@[simp] theorem Cipher.rekeyed_mode (key : Word) : (c.rekeyed key s).mode = s.mode := by
  cases c with
  | ask | dss => rfl

/-- The cipher's mode is kept. -/
theorem Cipher.Worked.mode (h : c.Worked xt s t) : t.mode = s.mode := by
  obtain ⟨hmode, -⟩ := h.engineKept 0
  simpa using hmode

/-- The state in which REKEY and INIT, the start of ENCRYPT, end (R146). -/
def Cipher.started (c : Cipher) (key nonce : Word) (s : State) : State :=
  (c.initialized nonce (c.rekeyed key s).complete).complete

/-- After REKEY and INIT a session runs. -/
theorem Cipher.running_started (hmode : s.mode = c.mode) (key nonce : Word) :
    c.Running (c.started key nonce s) := by
  cases c with
  | ask | dss => exact ⟨hmode, rfl⟩

/-- REKEY and INIT are such commands too. -/
theorem Cipher.worked_started (key nonce : Word) : c.Worked xt s (c.started key nonce s) := by
  cases c with
  | ask | dss => exact ⟨rfl, fun _ _ => rfl, fun _ => SameEngine.refl _⟩

/-- With a key and a nonce that are not zero, REKEY and INIT succeed in the cipher's mode. -/
theorem issueAll_rekey_init (hmode : s.mode = c.mode) (hkey : s.getX xk ≠ 0) (hnonce : s.getX xn ≠ 0) :
    issueAll [c.rekey xk, c.init xn] s = c.started (s.getX xk) (s.getX xn) s := by
  have hstate : (c.rekeyed (s.getX xk) s).complete.mode = c.mode ∧
      (c.rekeyed (s.getX xk) s).complete.phase ≠ .uninit ∧
      (c.rekeyed (s.getX xk) s).complete.getX xn = s.getX xn := by
    cases c with
    | ask | dss => exact ⟨hmode, nofun, rfl⟩
  obtain ⟨hmode', hphase', hget⟩ := hstate
  have hinit := Cipher.exec_init hmode' hphase' (hget ▸ hnonce)
  rw [issueAll_cons_of_ok (Cipher.exec_rekey hmode hkey) rfl, issueAll_cons_of_ok hinit rfl, hget]
  rfl

/-- The loop of R146 for `len` bytes, from the state that REKEY and INIT leave. -/
def Cipher.keystream (c : Cipher) (xt : Reg) (len : Nat) (s : State) : List Word × State :=
  collectChunks c xt (chunkCount len s.par.r.toNat) s

/-- ENCRYPT with a key and a nonce that are not zero, in the cipher's mode (R146, R155). -/
theorem encrypt_eq (hmode : s.mode = c.mode) (hkey : s.getX xk ≠ 0) (hnonce : s.getX xn ≠ 0) :
    encrypt c xk xn xt data s =
      (xorKeystream (c.started (s.getX xk) (s.getX xn) s).par.r.toNat
          (c.keystream xt data.length (c.started (s.getX xk) (s.getX xn) s)).1 data,
        (c.keystream xt data.length (c.started (s.getX xk) (s.getX xn) s)).2) := by
  have hrun := Cipher.running_started hmode (s.getX xk) (s.getX xn)
  have hstarted : (c.started (s.getX xk) (s.getX xn) s).err = .ok := rfl
  have hok : (c.keystream xt data.length (c.started (s.getX xk) (s.getX xn) s)).2.err = .ok :=
    ((Cipher.worked_started _ _).collectChunks hrun).err
  unfold Cipher.keystream at hok ⊢
  simp only [encrypt, issueAll_rekey_init hmode hkey hnonce, hstarted, hok, if_true]

/-- The output is as long as the data (R146). -/
@[simp] theorem length_xorKeystream (r : Nat) (chunks : List Word) (data : List Byte) :
    (xorKeystream r chunks data).length = data.length :=
  List.length_mapIdx

/-- The same keystream taken twice cancels (R146). -/
theorem xorKeystream_xorKeystream (r : Nat) (chunks : List Word) (data : List Byte) :
    xorKeystream r chunks (xorKeystream r chunks data) = data := by
  apply List.ext_getElem
  · rw [length_xorKeystream, length_xorKeystream]
  · intro m _ _
    simp [xorKeystream]

/-- REKEY and INIT with the same key and nonce build the same engine again. -/
theorem Cipher.Worked.started_sameEngine (h : c.Worked xt s t) (key nonce : Word) :
    SameEngine (c.started key nonce s) (c.started key nonce t) := by
  have hrekeyed : SameEngine (c.rekeyed key s).complete (c.rekeyed key t).complete := h.engineKept key
  exact Cipher.initialized_congr hrekeyed nonce

/-- ENCRYPT issues commands of the cipher that succeed and write no general register but `xt` (R146). -/
theorem encrypt_worked (hmode : s.mode = c.mode) (hkey : s.getX xk ≠ 0) (hnonce : s.getX xn ≠ 0) :
    c.Worked xt s (encrypt c xk xn xt data s).2 := by
  rw [encrypt_eq hmode hkey hnonce]
  exact (Cipher.worked_started _ _).collectChunks (Cipher.running_started hmode _ _)

/-- The keystream of a running session is fixed by the engine alone (R146). -/
theorem Cipher.keystream_fst_congr (hrun : c.Running s) (hsame : SameEngine s t) (len : Nat) :
    (c.keystream xt len s).1 = (c.keystream xt len t).1 := by
  have ⟨_, _, hpar, _⟩ := hsame
  rw [Cipher.keystream, Cipher.keystream, hpar]
  exact collectChunks_fst_congr hrun hsame

/-- After commands of the cipher, ENCRYPT under the same key and nonce uses the same keystream again. -/
theorem encrypt_fst_of_worked (h : c.Worked xt s t) (hxk : xt ≠ xk) (hxn : xt ≠ xn)
    (hmode : s.mode = c.mode) (hkey : s.getX xk ≠ 0) (hnonce : s.getX xn ≠ 0) :
    (encrypt c xk xn xt data t).1 = (encrypt c xk xn xt data s).1 := by
  have hxk' : t.getX xk = s.getX xk := h.getX xk hxk.symm
  have hxn' : t.getX xn = s.getX xn := h.getX xn hxn.symm
  have hsame := h.started_sameEngine (s.getX xk) (s.getX xn)
  have ⟨_, _, hpar, _⟩ := hsame
  rw [encrypt_eq (h.mode.trans hmode) (hxk' ▸ hkey) (hxn' ▸ hnonce), encrypt_eq hmode hkey hnonce, hxk',
    hxn', hpar, Cipher.keystream_fst_congr (Cipher.running_started hmode _ _) hsame]

/-- In one state, ENCRYPT of its own output gives the data back. -/
theorem encrypt_encrypt_fst (hmode : s.mode = c.mode) (hkey : s.getX xk ≠ 0) (hnonce : s.getX xn ≠ 0) :
    (encrypt c xk xn xt (encrypt c xk xn xt data s).1 s).1 = data := by
  simp only [encrypt_eq hmode hkey hnonce, length_xorKeystream]
  exact xorKeystream_xorKeystream _ _ data

/-- Settles O30: the second run starts from the same engine but for the key and the session, which its REKEY
and INIT write as the first run's did; so its keystream is the same. -/
theorem encryptIsAnInvolution : Obligations.EncryptIsAnInvolution := by
  intro c xk xn xt data s hmode hxk hxn hkey hnonce
  have hfirst : c.Worked xt s (encrypt c xk xn xt data s).2 := encrypt_worked hmode hkey hnonce
  have hxk' := hfirst.getX xk hxk.symm
  have hxn' := hfirst.getX xn hxn.symm
  refine ⟨hfirst.err, ?_, ?_, ?_⟩
  · rw [encrypt_eq hmode hkey hnonce, length_xorKeystream]
  · exact (encrypt_worked (hfirst.mode.trans hmode) (hxk' ▸ hkey) (hxn' ▸ hnonce)).err
  · rw [encrypt_fst_of_worked hfirst hxk hxn hmode hkey hnonce, encrypt_encrypt_fst hmode hkey hnonce]

end encrypt

end Sys2Proof.Machine

/-! SUPPORT. DSS.NEXT (spec 46_dss.md R153, R154): the bits of the next shared value, and what the command
does with them. -/

namespace Sys2Proof.Machine

/-- The next shared value is the subkey in the rate and the XOR of the branches in the capacity (R153). -/
theorem getLsbD_dssShared {n : Nat} (u d rmask : Mws n) (b : Nat) :
    (dssShared u d rmask).getLsbD b =
      if rmask.getLsbD b then u.getLsbD b else (u.getLsbD b ^^ d.getLsbD b) := by
  rw [dssShared, BitVec.getLsbD_or, BitVec.getLsbD_and, BitVec.getLsbD_and, BitVec.getLsbD_xor,
    BitVec.getLsbD_not]
  rcases Nat.lt_or_ge b (4 * n) with hb | hb
  · cases rmask.getLsbD b with
    | true => simp
    | false => simp [hb]
  · simp [BitVec.getLsbD_of_ge _ b hb]

/-- Settles O27: both branches are the shared value of the two old branches permuted, with bit W-1 forced. -/
theorem dssNextMixesTheBranches : Obligations.DssNextMixesTheBranches := by
  intro s rd hmode hphase
  have hexec := Cipher.exec_next (c := .dss) (r := rd) hmode hphase
  obtain ⟨hup, hdown, hsame⟩ :=
    upBranch_downBranch_bits (dssShared (Config.P s.st) (Config.P s.dn) s.rmask)
  refine ⟨_, hexec, State.getX_setX_self _ rd _, fun r hr => State.getX_setX_ne _ _ hr,
    fun b hb => ⟨?_, (hsame b hb).symm⟩, hup, hdown, ?_⟩
  · exact (branches_getLsbD_of_lt _ hb).1.trans (getLsbD_dssShared _ _ _ b)
  · simp [Cipher.afterNext, Cipher.advanced, State.complete, State.respond, State.setX, State.logCalls]

end Sys2Proof.Machine

/-! SUPPORT. The PRNG (spec 47_prng.md R160 to R164): what the seeds hold after SETUP.PRG, what PRG.REFRESH
and PRG.NEXT do once the check of MODE has passed, and the host's REFRESHN. -/

namespace Sys2Proof.Machine

section setup

variable {s t : State} {i : Nat}

/-- The seeds below CFG_S are the samples, masked to the rate (R160). -/
theorem State.seedAt_sampled (hseeds : t.seeds = s.sampledSeeds) (hs : s.cfg.s.toNat ≤ Config.SMAX)
    (hi : i < s.cfg.s.toNat) : t.seedAt i = s.sample i &&& mask Config.W s.cfg.r.toNat := by
  rw [State.seedAt, hseeds, getElem?_sampledSeeds s (hi.trans_le hs), if_pos hi]
  rfl

/-- The seeds from CFG_S on are 0 (R160). -/
theorem State.seedAt_unsampled (hseeds : t.seeds = s.sampledSeeds) (hi : s.cfg.s.toNat ≤ i) :
    t.seedAt i = 0 := by
  rw [State.seedAt, hseeds]
  rcases Nat.lt_or_ge i Config.SMAX with hslot | hnone
  · rw [getElem?_sampledSeeds s hslot, if_neg (Nat.not_lt.mpr hi)]
    rfl
  · rw [Vector.getElem?_eq_none hnone]
    rfl

/-- Settles O19: with its checks passed, SETUP.PRG latches the parameters over a cleared engine; the state
is the sample after the seeds'. -/
theorem setupPrgBuildsTheInstance : Obligations.SetupPrgBuildsTheInstance := by
  intro s hr0 hrW ht0 hs1 hsMax
  have hvalid : ¬(s.rateInvalid || s.roundsInvalid || s.seedCountInvalid) = true := by
    simp only [Bool.not_eq_true, Bool.or_eq_false_iff, State.rateInvalid_eq_false_iff,
      State.roundsInvalid_eq_false_iff, State.seedCountInvalid_eq_false_iff]
    exact ⟨⟨⟨hr0, hrW⟩, ht0⟩, hs1, hsMax⟩
  refine ⟨_, congrArg Host.Outcome.next (if_neg hvalid), rfl, rfl, rfl, toNat_mask hrW, rfl, rfl, rfl,
    rfl, fun i => State.keyAt_of_cleared i rfl, fun i hi l => ?_,
    fun i hi => State.seedAt_unsampled rfl hi, State.limb_sample_and s.cfg.s.toNat _, rfl, rfl, rfl, rfl,
    rfl, rfl, rfl⟩
  rw [State.seedAt_sampled rfl hsMax hi]
  exact State.limb_sample_and i _ l

end setup

section refresh

variable {s t : State} {ra rd : Reg}

/-- PRG.REFRESH changes the rate bits of the state alone, by the XOR of input and seed (R161). -/
theorem getLsbD_prgRefreshInput {n : Nat} (st input seed rmask : Mws n) (b : Nat) :
    (prgRefreshInput st input seed rmask).getLsbD b =
      (st.getLsbD b ^^ (rmask.getLsbD b && (input.getLsbD b ^^ seed.getLsbD b))) := by
  rw [prgRefreshInput, BitVec.getLsbD_xor, BitVec.getLsbD_and, BitVec.getLsbD_xor, Bool.and_comm]

/-- The value that PRG.REFRESH of `x[ra]` presents to the permutation (R161). -/
def State.refreshInput (s : State) (ra : Reg) : Word :=
  prgRefreshInput s.st (s.getX ra) (s.seedAt s.j.toNat) s.rmask

/-- The seed index after PRG.REFRESH (R161). -/
def State.nextSeed (s : State) : BitVec 16 := BitVec.ofNat 16 ((s.j.toNat + 1) % s.par.s.toNat)

/-- The seed index loses nothing in its 16 bits (R36). -/
theorem State.toNat_nextSeed (h : 0 < s.par.s.toNat) :
    s.nextSeed.toNat = (s.j.toNat + 1) % s.par.s.toNat :=
  (BitVec.toNat_ofNat _ _).trans (Nat.mod_eq_of_lt ((Nat.mod_lt _ h).trans s.par.s.isLt))

/-- The state in which PRG.REFRESH of `x[ra]` ends in mode PRG (R161). -/
def State.refreshed (s : State) (ra : Reg) : State :=
  { s with
    st := Config.P (s.refreshInput ra), j := s.nextSeed, err := .ok
    log := s.log ++ [.permCall (s.refreshInput ra) (Config.P (s.refreshInput ra)), .response .ok] }

/-- PRG.REFRESH leaves the latched parameters as they are (R161). -/
@[simp] theorem State.refreshed_par : (s.refreshed ra).par = s.par := rfl

/-- PRG.REFRESH in its mode (R161). -/
theorem exec_prgRefresh (hmode : s.mode = .prg) : exec (.prgRefresh ra) s = .next (s.refreshed ra) := by
  refine congrArg Host.Outcome.next ((if_neg (not_not.mpr hmode)).trans ?_)
  simp [State.refreshed, State.refreshInput, State.nextSeed, State.complete, State.respond,
    State.logCalls, permute]

/-- PRG.REFRESH outside its mode (R161, R177). -/
theorem exec_prgRefresh_of_mode_ne (hmode : s.mode ≠ .prg) :
    exec (.prgRefresh ra) s = .next (s.raise .notSetup) :=
  congrArg Host.Outcome.next (if_pos hmode)

/-- Settles O31: in mode PRG the check passes, and `State.refreshed` is the whole next state. -/
theorem refreshAbsorbsWithTheNextSeed : Obligations.RefreshAbsorbsWithTheNextSeed := fun s ra hmode hs =>
  ⟨_, s.refreshInput ra, exec_prgRefresh hmode, getLsbD_prgRefreshInput _ _ _ _, s.toNat_nextSeed hs,
    rfl⟩

end refresh

section next

variable {n : Nat} (P : Mws n → Mws n) (rmask : Mws n)

/-- Call `j + 1` presents the answer of call `j` with the rate bits cleared, where the call before the loop
was answered by `s` (R163). -/
theorem prgTruncate_chain (count : Nat) (x s : Mws n) {j : Nat} {c d : Mws n × Mws n}
    (hc : ((x, s) :: (prgTruncate P rmask count s).2)[j]? = some c)
    (hd : ((x, s) :: (prgTruncate P rmask count s).2)[j + 1]? = some d) : d.1 = c.2 &&& ~~~rmask := by
  induction count generalizing x s j with
  | zero => simp [prgTruncate] at hd
  | succ count ih =>
    cases j with
    | zero =>
      cases hc
      cases hd
      rfl
    | succ j => exact ih _ _ hc hd

/-- The loop ends with the answer of its last call (R163). -/
theorem prgTruncate_last (count : Nat) (x s : Mws n) :
    ((x, s) :: (prgTruncate P rmask count s).2).getLast?.map Prod.snd =
      some (prgTruncate P rmask count s).1 := by
  induction count generalizing x s with
  | zero => rfl
  | succ count ih =>
    refine (congrArg (Option.map Prod.snd) List.getLast?_cons_cons).trans ?_
    exact ih _ _

variable {s t : State} {rd : Reg}

/-- The rounds of PRG.NEXT after its first permutation call (R163). -/
def State.truncation (s : State) : WithCalls Config.N :=
  prgTruncate Config.P s.rmask (s.par.t.toNat - 1) (Config.P s.st)

/-- The permutation calls of PRG.NEXT (R163). -/
def State.nextCalls (s : State) : List (Word × Word) := (s.st, Config.P s.st) :: s.truncation.2

/-- The state in which PRG.NEXT into `x[rd]` ends in mode PRG (R163). -/
def State.squeezed (s : State) (rd : Reg) : State :=
  ({ s.logCalls s.nextCalls with st := s.truncation.1, j := 1 }.setX rd
    (Config.P s.st &&& s.rmask)).complete

/-- PRG.NEXT in its mode (R163). -/
theorem exec_prgNext (hmode : s.mode = .prg) : exec (.prgNext rd) s = .next (s.squeezed rd) :=
  congrArg Host.Outcome.next (if_neg (not_not.mpr hmode))

/-- Settles O32: the first call and the loop of truncations are one chain of t calls. -/
theorem prgNextSqueezesThenTruncates : Obligations.PrgNextSqueezesThenTruncates := by
  intro s rd hmode ht
  obtain ⟨hlength, hanswered⟩ := prgTruncate_calls Config.P s.rmask (s.par.t.toNat - 1) (Config.P s.st)
  have hget : (s.squeezed rd).getX rd = Config.P s.st &&& s.rmask := State.getX_setX_self _ rd _
  refine ⟨_, s.nextCalls, exec_prgNext hmode, ?_, List.forall_mem_cons.mpr ⟨rfl, hanswered⟩, ?_,
    fun _ _ _ => prgTruncate_chain Config.P s.rmask _ _ _, prgTruncate_last Config.P s.rmask _ _ _, rfl,
    fun r hr => State.getX_setX_ne _ _ hr, ?_⟩
  · exact (congrArg (· + 1) hlength).trans (Nat.sub_add_cancel ht)
  · rintro c ⟨⟩
    exact ⟨rfl, hget⟩
  · simp [State.squeezed, State.complete, State.respond, State.setX, State.logCalls]

/-- Settles O33: with t ≥ 2 the loop of truncations runs, and it uses the capacity alone. -/
theorem prgNextForgetsTheRevealedRate : Obligations.PrgNextForgetsTheRevealedRate := by
  intro s₁ s₂ t₁ t₂ rd hmode₁ hmode₂ hpar hrmask ht hcapacity h₁ h₂
  cases (exec_prgNext hmode₁).symm.trans h₁
  cases (exec_prgNext hmode₂).symm.trans h₂
  obtain ⟨rounds, hrounds⟩ : ∃ rounds, s₁.par.t.toNat - 1 = rounds + 1 := ⟨s₁.par.t.toNat - 2, by omega⟩
  rw [← hrmask] at hcapacity
  change s₁.truncation.1 = s₂.truncation.1
  rw [State.truncation, State.truncation, ← hpar, ← hrmask, hrounds,
    prgTruncate_capacity Config.P s₁.rmask rounds hcapacity]

end next

section determinism

variable {i : Instr} {s s' : State} {ra rd : Reg}

/-- The two states agree on the engine and on the general registers (R164). -/
def SamePrng (s t : State) : Prop := SameEngine s t ∧ s.x = t.x

/-- `s` with the engine and the general registers of another state. -/
def State.withPrng (s prng : State) : State := { s.withEngine prng with x := prng.x }

/-- A state with the same engine and registers is itself with that engine and those registers. -/
theorem SamePrng.eq_withPrng (h : SamePrng s s') : s' = s'.withPrng s := by
  obtain ⟨hsame, hx⟩ := h
  rw [State.withPrng, hx, ← hsame.eq_withEngine]

/-- What PRG.REFRESH makes of the engine and the registers is fixed by them (R161). -/
theorem SamePrng.refreshed (h : SamePrng s s') : SamePrng (s.refreshed ra) (s'.refreshed ra) := by
  rw [h.eq_withPrng]
  exact ⟨SameEngine.refl _, rfl⟩

/-- What PRG.NEXT makes of the engine and the registers is fixed by them (R163). -/
theorem SamePrng.squeezed (h : SamePrng s s') : SamePrng (s.squeezed rd) (s'.squeezed rd) := by
  rw [h.eq_withPrng]
  exact ⟨SameEngine.refl _, rfl⟩

/-- Either command of the PRNG succeeds in its mode, keeps MODE, and takes equal engines and registers to
equal ones. -/
theorem exec_prg_samePrng (hcmd : (∃ r, i = .prgRefresh r) ∨ ∃ r, i = .prgNext r) (hmode : s.mode = .prg)
    (h : SamePrng s s') :
    ∃ t t', exec i s = .next t ∧ exec i s' = .next t' ∧ t.err = .ok ∧ t'.err = .ok ∧ t.mode = .prg ∧
      SamePrng t t' := by
  have ⟨⟨hsame, _⟩, _⟩ := h
  have hmode' : s'.mode = .prg := hsame.trans hmode
  obtain ⟨r, rfl⟩ | ⟨r, rfl⟩ := hcmd
  · exact ⟨_, _, exec_prgRefresh hmode, exec_prgRefresh hmode', rfl, rfl, hmode, h.refreshed⟩
  · exact ⟨_, _, exec_prgNext hmode, exec_prgNext hmode', rfl, rfl, hmode, h.squeezed⟩

/-- A sequence of commands of the PRNG takes equal engines and registers to equal ones. -/
theorem issueAll_prg_samePrng {cmds : List Instr}
    (hcmds : ∀ i ∈ cmds, (∃ r, i = .prgRefresh r) ∨ ∃ r, i = .prgNext r) (hmode : s.mode = .prg)
    (h : SamePrng s s') : SamePrng (issueAll cmds s) (issueAll cmds s') := by
  induction cmds generalizing s s' with
  | nil => exact h
  | cons i rest ih =>
    obtain ⟨hi, hrest⟩ := List.forall_mem_cons.mp hcmds
    obtain ⟨t, t', hexec, hexec', hok, hok', hmode, h⟩ := exec_prg_samePrng hi hmode h
    rw [issueAll_cons_of_ok hexec hok, issueAll_cons_of_ok hexec' hok']
    exact ih hrest hmode h

/-- Settles O34: each command uses the engine and the registers alone. -/
theorem prgOutputsAreDetermined : Obligations.PrgOutputsAreDetermined := by
  intro cmds hcmds s₁ s₂ hmode hsame hx
  obtain ⟨hsame, hx⟩ := issueAll_prg_samePrng hcmds hmode ⟨hsame, hx⟩
  exact ⟨hx, hsame⟩

end determinism

section refreshN

variable {s t : State} {ra : Reg} {inputs : List Reg} {calls : List (Word × Word)}

/-- In mode PRG, from `s` to `t`, the listed registers were refreshed from in order, with the permutation
calls `calls` (R162). -/
structure RefreshedEach (inputs : List Reg) (calls : List (Word × Word)) (s t : State) : Prop where
  length : calls.length = inputs.length
  answered : ∀ c ∈ calls, c.2 = Config.P c.1
  absorbed : ∀ i r c p, inputs[i]? = some r → calls[i]? = some c →
    (s.st :: calls.map Prod.snd)[i]? = some p →
    c.1 = prgRefreshInput p (s.getX r) (s.seedAt ((s.j.toNat + i) % s.par.s.toNat)) s.rmask
  last : (s.st :: calls.map Prod.snd).getLast? = some t.st
  seed : t.j.toNat = (s.j.toNat + inputs.length) % s.par.s.toNat
  err : t.err = if inputs = [] then s.err else .ok
  other : t = { s with
    st := t.st, j := t.j, err := t.err
    log := s.log ++ calls.flatMap fun c => [.permCall c.1 c.2, .response .ok] }

/-- The seed index after PRG.REFRESH, where it was one of a seed before (R36). -/
theorem State.refreshed_seed (hj : s.j.toNat < s.par.s.toNat) :
    (s.refreshed ra).j.toNat = (s.j.toNat + 1) % s.par.s.toNat :=
  s.toNat_nextSeed (Nat.zero_lt_of_lt hj)

/-- With no register listed, nothing is done (R162). -/
theorem RefreshedEach.nil (hj : s.j.toNat < s.par.s.toNat) : RefreshedEach [] [] s s where
  length := rfl
  answered := by simp
  absorbed := by simp
  last := rfl
  seed := (Nat.mod_eq_of_lt hj).symm
  err := rfl
  other := by simp

/-- One PRG.REFRESH before the others: its call comes first, and the others go on with the next seed. -/
theorem RefreshedEach.cons (hj : s.j.toNat < s.par.s.toNat)
    (h : RefreshedEach inputs calls (s.refreshed ra) t) :
    RefreshedEach (ra :: inputs) ((s.refreshInput ra, Config.P (s.refreshInput ra)) :: calls) s t where
  length := congrArg (· + 1) h.length
  answered := List.forall_mem_cons.mpr ⟨rfl, h.answered⟩
  absorbed i r c p hr hc hp := by
    cases i with
    | zero =>
      cases hr
      cases hc
      cases hp
      rw [Nat.add_zero, Nat.mod_eq_of_lt hj]
      rfl
    | succ i =>
      have hseed : ((s.refreshed ra).j.toNat + i) % s.par.s.toNat =
          (s.j.toNat + (i + 1)) % s.par.s.toNat := by
        rw [State.refreshed_seed hj, Nat.mod_add_mod, Nat.add_assoc, Nat.add_comm 1]
      rw [← hseed]
      exact h.absorbed i r c p hr hc hp
  last := List.getLast?_cons_cons.trans h.last
  seed := by
    rw [h.seed, State.refreshed_seed hj, State.refreshed_par, Nat.mod_add_mod, List.length_cons,
      Nat.add_assoc, Nat.add_comm 1]
  err := by
    rw [h.err, if_neg (List.cons_ne_nil ra inputs)]
    exact ite_self _
  other := by
    conv_lhs => rw [h.other]
    simp [State.refreshed]

/-- In mode PRG the host's commands refresh from every listed register in order (R162). -/
theorem refreshed_issueAll (inputs : List Reg) (hmode : s.mode = .prg) (hj : s.j.toNat < s.par.s.toNat) :
    ∃ calls, RefreshedEach inputs calls s (issueAll (inputs.map .prgRefresh) s) := by
  induction inputs generalizing s with
  | nil => exact ⟨[], .nil hj⟩
  | cons ra rest ih =>
    have hj' : (s.refreshed ra).j.toNat < s.par.s.toNat := by
      rw [State.refreshed_seed hj]
      exact Nat.mod_lt _ (Nat.zero_lt_of_lt hj)
    obtain ⟨calls, hrest⟩ := ih (s := s.refreshed ra) hmode hj'
    rw [List.map_cons, issueAll_cons_of_ok (exec_prgRefresh hmode) rfl]
    exact ⟨_, hrest.cons hj⟩

/-- Settles O60: outside mode PRG the first response stops the host, and in mode PRG none does. -/
theorem refreshNAbsorbsInListOrder : Obligations.RefreshNAbsorbsInListOrder := by
  refine ⟨fun _ => rfl, fun inputs s hne => ?_⟩
  obtain ⟨ra, rest, rfl⟩ := List.exists_cons_of_ne_nil hne
  refine ⟨_, refreshAll_cons ra rest s, fun hmode => ?_, fun hmode hj => ?_⟩
  · rw [issueAll_cons_of_error (exec_prgRefresh_of_mode_ne hmode) nofun]
    rfl
  · obtain ⟨calls, h⟩ := refreshed_issueAll (ra :: rest) hmode hj
    refine ⟨calls, h.length, h.answered, fun i r c p hr hc hp b => ?_, ?_, h.seed, ?_⟩
    · rw [h.absorbed i r c p hr hc hp]
      exact getLsbD_prgRefreshInput _ _ _ _ b
    · obtain ⟨c, rest', rfl⟩ := List.exists_cons_of_length_eq_add_one h.length
      rw [← List.getLast?_map]
      exact List.getLast?_cons_cons.symm.trans h.last
    · have hother := h.other
      rwa [h.err, if_neg hne] at hother

end refreshN

end Sys2Proof.Machine

/-! SUPPORT. The errors (spec 60_exceptions.md R170 to R183) and the reset input (70_reset_and_hazards.md R190):
the response that each command's checks give, and that a nonzero one is all that the command does. -/

namespace Sys2Proof

/-- The response with which a command ends: that of the first of its checks that fails, in the order of
R183, and 0 if none does. -/
def Instr.response (s : Machine.State) : Instr → Machine.Response
  | .not _ _ | .and _ _ _ | .or _ _ _ | .xor _ _ _ | .cmpeq _ _ | .add _ _ _ | .sub _ _ _ | .rand _
  | .perm _ _ => .ok
  | .shl _ _ imm16 | .shr _ _ imm16 | .rotl _ _ imm16 | .rotr _ _ imm16 =>
    if Config.W ≤ imm16.toNat then .operandRange else .ok
  | .csrw csr _ => if Machine.cfgReg? csr = none then .illegalCommand else .ok
  | .csrr _ csr => if Machine.csr? csr = none then .illegalCommand else .ok
  | .setupDup =>
    if s.rateInvalid || s.keyWidthInvalid || s.keyCountInvalid then .paramInvalid else .ok
  | .setupAsk | .setupDss => if s.rateInvalid || s.keyWidthInvalid then .paramInvalid else .ok
  | .setupPrg =>
    if s.rateInvalid || s.roundsInvalid || s.seedCountInvalid then .paramInvalid else .ok
  | .dupReset _ | .dupDuplex _ _ _ => if s.mode ≠ .dup then .notSetup else .ok
  | .askRekey ra =>
    if s.mode ≠ .ask then .notSetup
    else if Machine.eqW (s.getX ra) 0 then .invalidDomainValue else .ok
  | .dssRekey ra =>
    if s.mode ≠ .dss then .notSetup
    else if Machine.eqW (s.getX ra) 0 then .invalidDomainValue else .ok
  | .askInit ra =>
    if s.mode ≠ .ask then .notSetup
    else if s.phase = .uninit then .notKeyed
    else if Machine.eqW (s.getX ra) 0 then .invalidDomainValue else .ok
  | .dssInit ra =>
    if s.mode ≠ .dss then .notSetup
    else if s.phase = .uninit then .notKeyed
    else if Machine.eqW (s.getX ra) 0 then .invalidDomainValue else .ok
  | .askNext _ =>
    if s.mode ≠ .ask then .notSetup else if s.phase ≠ .initialized then .notInitialized else .ok
  | .dssNext _ =>
    if s.mode ≠ .dss then .notSetup else if s.phase ≠ .initialized then .notInitialized else .ok
  | .prgRefresh _ | .prgNext _ => if s.mode ≠ .prg then .notSetup else .ok

/-- A word decodes to the command that it encodes, and to no other (R77). -/
theorem decode_eq_ok_iff {w : CommandWord} {i : Instr} : decode w = .ok i ↔ encode i = w :=
  ⟨encode_of_decode, fun h => h ▸ decode_encode i⟩

/-- The words that no row of the table covers are those that do not decode (R76). -/
theorem no_row_matches_iff {w : CommandWord} :
    (∀ row ∈ opcodeTable, w &&& row.mask ≠ row.pattern) ↔ ∀ i, decode w ≠ .ok i := by
  obtain ⟨hdecodes, -⟩ := decoderFollowsTheOpcodeTable.1 w
  rw [← not_exists, hdecodes]
  simp [wordWellFormed, OpcodeRow.covers]

end Sys2Proof

namespace Sys2Proof.Machine

section responses

variable {i : Instr} {s t : State} {e : Response}

/-- From `s` a command ended in `t` with the response `e`, and if that is an error, then nothing else has
changed (R171, R172). -/
def EndedWith (e : Response) (s t : State) : Prop :=
  t.err = e ∧ (e ≠ .ok → OnlyResponded e s t)

/-- An error changes nothing else (R172). -/
theorem EndedWith.raise : EndedWith e s (s.raise e) := ⟨rfl, fun _ => rfl⟩

/-- The end of a command that succeeded (R171). -/
theorem EndedWith.complete : EndedWith .ok s t.complete := ⟨rfl, absurd rfl⟩

/-- The first check that fails gives the response (R183). -/
theorem EndedWith.check {c : Prop} [Decidable c] {e' : Response} (h : EndedWith e' s t) :
    EndedWith (if c then e else e') s (if c then s.raise e else t) := by
  split
  · exact .raise
  · exact h

/-- Every command ends with its response. Each arm passes the checks of the command in order. -/
theorem exec_endedWith (i : Instr) (s : State) :
    ∃ t, exec i s = .next t ∧ EndedWith (i.response s) s t := by
  cases i with
  | not | and | or | xor | cmpeq | add | sub | rand | perm => exact ⟨_, rfl, .complete⟩
  | shl | shr | rotl | rotr | setupDup | setupAsk | setupDss | setupPrg | dupReset | dupDuplex
  | prgRefresh | prgNext => exact ⟨_, rfl, .check .complete⟩
  | csrw csr v =>
    refine ⟨_, rfl, ?_⟩
    rw [Instr.response]
    cases cfgReg? csr with
    | none => exact .raise
    | some c => exact .complete
  | csrr rd csr =>
    refine ⟨_, rfl, ?_⟩
    rw [Instr.response]
    cases csr? csr with
    | none => exact .raise
    | some c => exact .complete
  | askRekey | dssRekey | askNext | dssNext => exact ⟨_, rfl, .check (.check .complete)⟩
  | askInit | dssInit => exact ⟨_, rfl, .check (.check (.check .complete))⟩

/-- What a command answers, it answers with its response. -/
theorem endedWith_of_exec (hexec : exec i s = .next t) : EndedWith (i.response s) s t := by
  obtain ⟨t', hexec', h⟩ := exec_endedWith i s
  cases hexec'.symm.trans hexec
  exact h

/-- An error that a command ended with is all that it did (R172). -/
theorem EndedWith.onlyResponded {e' : Response} (h : EndedWith e' s t) (he : t.err = e) (hne : e ≠ .ok) :
    OnlyResponded e s t := by
  obtain ⟨rfl, hfail⟩ := h
  subst he
  exact hfail hne

/-- Whether a command ends with an error, and that it then does nothing else, is read off its response. -/
theorem exists_exec_err_iff {p : Prop} (h : i.response s = e ↔ p) (hne : e ≠ .ok) :
    ∃ t, exec i s = .next t ∧ (t.err = e → OnlyResponded e s t) ∧ (t.err = e ↔ p) := by
  obtain ⟨t, hexec, hended⟩ := exec_endedWith i s
  have ⟨herr, _⟩ := hended
  exact ⟨t, hexec, fun he => hended.onlyResponded he hne, herr ▸ h⟩

/-- Settles O35: a command ends with its response, and a word that does not decode raises an error. -/
theorem failingCommandChangesOnlyErr : Obligations.FailingCommandChangesOnlyErr := by
  have hcommand (i : Instr) (s t : State) (hexec : exec i s = .next t) (herr : t.err ≠ .ok) :
      OnlyResponded t.err s t := (endedWith_of_exec hexec).onlyResponded rfl herr
  refine ⟨hcommand, fun s t w rest hin hstep herr => ?_⟩
  rw [step_of_inbox hin] at hstep
  cases hdec : decode w with
  | ok i => exact hcommand i _ t ((runCommand_of_decode_ok hdec).symm.trans hstep) herr
  | error e =>
    cases (runCommand_of_decode_error hdec).symm.trans hstep
    rfl

/-- The commands that answer `OperandRange` (R175). -/
theorem response_eq_operandRange_iff (i : Instr) (s : State) :
    i.response s = .operandRange ↔ ∃ rd ra imm16, Config.W ≤ imm16.toNat ∧
      (i = .shl rd ra imm16 ∨ i = .shr rd ra imm16 ∨ i = .rotl rd ra imm16 ∨ i = .rotr rd ra imm16) := by
  cases i with
  | shl | shr | rotl | rotr => simp [Instr.response]
  | _ => simp [Instr.response, ite_eq_iff]

/-- Settles O36: of all checks the one of the amount alone answers `OperandRange`. -/
theorem operandRangeExactly : Obligations.OperandRangeExactly := fun i s =>
  exists_exec_err_iff (response_eq_operandRange_iff i s) nofun

/-- The commands that answer `ParamInvalid` (R176). -/
theorem response_eq_paramInvalid_iff (i : Instr) (s : State) :
    i.response s = .paramInvalid ↔
      (i = .setupDup ∧ (s.cfg.r.toNat = 0 ∨ Config.W < s.cfg.r.toNat ∨ s.cfg.k.toNat = 0 ∨
        Config.W < s.cfg.k.toNat ∨ s.cfg.u.toNat = 0 ∨ Config.UMAX < s.cfg.u.toNat)) ∨
      ((i = .setupAsk ∨ i = .setupDss) ∧ (s.cfg.r.toNat = 0 ∨ Config.W < s.cfg.r.toNat ∨
        s.cfg.k.toNat = 0 ∨ Config.W < s.cfg.k.toNat)) ∨
      (i = .setupPrg ∧ (s.cfg.r.toNat = 0 ∨ Config.W < s.cfg.r.toNat ∨ s.cfg.t.toNat = 0 ∨
        s.cfg.s.toNat ≤ 1 ∨ Config.SMAX < s.cfg.s.toNat)) := by
  cases i with
  | setupDup | setupAsk | setupDss | setupPrg =>
    simp [Instr.response, -ite_eq_left_iff, ite_eq_iff, State.rateInvalid, State.keyWidthInvalid,
      State.keyCountInvalid, State.roundsInvalid, State.seedCountInvalid, or_assoc]
  | _ => simp [Instr.response, ite_eq_iff]

/-- Settles O37: of all checks those of the parameters alone answer `ParamInvalid`. -/
theorem paramInvalidExactly : Obligations.ParamInvalidExactly := fun i s =>
  exists_exec_err_iff (response_eq_paramInvalid_iff i s) nofun

/-- The commands that answer `NotSetup` (R177). -/
theorem response_eq_notSetup_iff (i : Instr) (s : State) :
    i.response s = .notSetup ↔
      (∃ r, s.mode ≠ .dup ∧ (i = .dupReset r ∨ ∃ r' f, i = .dupDuplex r r' f)) ∨
      (∃ r, s.mode ≠ .ask ∧ (i = .askRekey r ∨ i = .askInit r ∨ i = .askNext r)) ∨
      (∃ r, s.mode ≠ .dss ∧ (i = .dssRekey r ∨ i = .dssInit r ∨ i = .dssNext r)) ∨
      (∃ r, s.mode ≠ .prg ∧ (i = .prgRefresh r ∨ i = .prgNext r)) := by
  cases i with
  | dupReset | dupDuplex | askRekey | askInit | askNext | dssRekey | dssInit | dssNext | prgRefresh
  | prgNext => simp [Instr.response, ite_eq_iff]
  | _ => simp [Instr.response, ite_eq_iff]

/-- Settles O38: of all checks that of MODE alone answers `NotSetup`. -/
theorem notSetupExactly : Obligations.NotSetupExactly := fun i s =>
  exists_exec_err_iff (response_eq_notSetup_iff i s) nofun

/-- There are two ciphers. -/
theorem Cipher.exists_iff {p : Cipher → Prop} : (∃ c, p c) ↔ p .ask ∨ p .dss := by
  constructor
  · rintro ⟨c, hc⟩
    cases c with
    | ask => exact .inl hc
    | dss => exact .inr hc
  · rintro (h | h)
    · exact ⟨_, h⟩
    · exact ⟨_, h⟩

/-- The commands that answer `NotKeyed` (R178). -/
theorem response_eq_notKeyed_iff (i : Instr) (s : State) :
    i.response s = .notKeyed ↔
      ∃ (c : Cipher) (r : Reg), i = c.init r ∧ s.mode = c.mode ∧ s.phase = .uninit := by
  simp only [Cipher.exists_iff, Cipher.init, Cipher.mode]
  cases i with
  | askInit | dssInit => simp [Instr.response, ite_eq_iff]
  | _ => simp [Instr.response, ite_eq_iff]

/-- The commands that answer `NotInitialized` (R179). -/
theorem response_eq_notInitialized_iff (i : Instr) (s : State) :
    i.response s = .notInitialized ↔
      ∃ (c : Cipher) (r : Reg), i = c.next r ∧ s.mode = c.mode ∧ s.phase ≠ .initialized := by
  simp only [Cipher.exists_iff, Cipher.next, Cipher.mode]
  cases i with
  | askNext | dssNext => simp [Instr.response, ite_eq_iff]
  | _ => simp [Instr.response, ite_eq_iff]

/-- Settles O39: INIT and NEXT answer so past their check of MODE. -/
theorem sequencingErrorsExactly : Obligations.SequencingErrorsExactly := by
  intro i s
  obtain ⟨t, hexec, hend, -⟩ := exec_endedWith i s
  refine ⟨t, hexec, ?_⟩
  rw [hend]
  exact ⟨ response_eq_notKeyed_iff i s, response_eq_notInitialized_iff i s⟩

/-- The commands that answer `InvalidDomainValue` (R180, R183). -/
theorem response_eq_invalidDomainValue_iff (i : Instr) (s : State) :
    i.response s = .invalidDomainValue ↔
      ∃ (c : Cipher) (r : Reg), s.mode = c.mode ∧ s.getX r = 0 ∧
        (i = c.rekey r ∨ (i = c.init r ∧ s.phase ≠ .uninit)) := by
  simp only [Cipher.exists_iff, Cipher.rekey, Cipher.init, Cipher.mode]
  cases i with
  | askRekey | dssRekey => simp [Instr.response, ite_eq_iff, eqW_iff]
  | askInit | dssInit => simp [Instr.response, ite_eq_iff, eqW_iff, and_comm]
  | _ => simp [Instr.response, ite_eq_iff]

/-- Settles O40: REKEY and INIT answer so past their checks of MODE and PHASE. -/
theorem invalidDomainValueExactly : Obligations.InvalidDomainValueExactly := by
  intro i s
  obtain ⟨t, hexec, -, herr⟩ := exists_exec_err_iff (response_eq_invalidDomainValue_iff i s) nofun
  exact ⟨t, hexec, herr⟩

/-- The commands that answer `IllegalCommand` (R174). -/
theorem response_eq_illegalCommand_iff (i : Instr) (s : State) :
    i.response s = .illegalCommand ↔
      (∃ n v, i = .csrw n v ∧ 5 < n.val) ∨
      (∃ rd n, i = .csrr rd n ∧ (n.val = 6 ∨ n.val = 7 ∨ 12 ≤ n.val)) := by
  cases i with
  | csrw => simp [Instr.response, cfgReg?_eq_none_iff]
  | csrr => simp [Instr.response, -ite_eq_left_iff, ite_eq_iff, csr?_eq_none_iff]
  | _ => simp [Instr.response, ite_eq_iff]

/-- Settles O41: a word that decodes is the encoding of one command, which answers; one that does not is
covered by no row. -/
theorem illegalCommandExactly : Obligations.IllegalCommandExactly := by
  intro s w rest hin
  have hstep : step s = runCommand w { s with inbox := rest } := step_of_inbox hin
  rw [no_row_matches_iff]
  cases hdec : decode w with
  | ok i =>
    obtain ⟨t, hexec, hfail, herr⟩ := exists_exec_err_iff
      (response_eq_illegalCommand_iff i { s with inbox := rest }) nofun
    have hencode (j : Instr) : encode j = w ↔ i = j := by
      rw [← decode_eq_ok_iff, hdec, Except.ok.injEq]
    refine ⟨t, hstep.trans ((runCommand_of_decode_ok hdec).trans hexec), hfail, herr.trans ?_⟩
    simp [hencode]
  | error e =>
    exact ⟨_, hstep.trans (runCommand_of_decode_error hdec), fun _ => rfl, fun _ => .inl nofun,
      fun _ => rfl⟩

end responses

section session

variable {c : Cipher} {s : State} {r : Reg}

/-- NEXT in the cipher's mode without a running session (R179). -/
theorem Cipher.exec_next_of_phase_ne (hmode : s.mode = c.mode) (hphase : s.phase ≠ .initialized) :
    exec (c.next r) s = .next (s.raise .notInitialized) := by
  cases c with
  | ask | dss =>
    exact congrArg Host.Outcome.next ((if_neg (not_not.mpr hmode)).trans (if_pos hphase))

/-- PHASE after REKEY (R141, R151). -/
@[simp] theorem Cipher.rekeyed_phase (key : Word) : (c.rekeyed key s).phase = .keyed := by
  cases c with
  | ask | dss => rfl

/-- Settles O29: REKEY leaves MODE as it is and PHASE = KEYED. -/
theorem nextAfterRekeyIsNotInitialized : Obligations.NextAfterRekeyIsNotInitialized := by
  intro c s ra rd hmode hkey
  have hmode' : (c.rekeyed (s.getX ra) s).complete.mode = c.mode := by simpa using hmode
  have hphase' : (c.rekeyed (s.getX ra) s).complete.phase ≠ .initialized := by simp
  exact ⟨_, Cipher.exec_rekey hmode hkey, rfl, _, Cipher.exec_next_of_phase_ne hmode' hphase', rfl⟩

end session

/-- Settles O53: every field of the reset state but the host's is zero. -/
theorem resetInputGivesResetState : Obligations.ResetInputGivesResetState := by
  intro s rest hin
  refine ⟨_, step_of_inbox hin, State.reset_getX, rfl, rfl, rfl, rfl, rfl, rfl, rfl, rfl, rfl, rfl, rfl,
    fun i hi => ?_, fun i hi => ?_, rfl, rfl, rfl, rfl⟩
  · exact Vector.getElem?_replicate_of_lt hi
  · exact Vector.getElem?_replicate_of_lt hi

end Sys2Proof.Machine
